-- ==== Sys2Proof/Word.lean ====
section
/-! DEFINITION. The word types of the engine (spec 00_scope.md R8 to R12, 20_memory.md R50, R53): lane words, half-blocks,
32-bit scalars, host-port addresses and host-port data. `w` is the lane width, the spec's open parameter `W`. -/

namespace Sys2Proof

/-- A lane word: bit `j` belongs to lane `j` (R11). -/
abbrev LaneWord (w : Nat) := BitVec w

/-- A half-block: exactly 32 lane words, index 0 the least significant bit (R9 `HB`, R11, R17). -/
abbrev HalfBlock (w : Nat) := Vector (LaneWord w) 32

/-- The 32-bit unsigned scalars `SUM`, `RCNT`, `ROUNDS`, `DELTA`, and a command word (R10 `RW`, R15, R80). -/
abbrev Scalar := BitVec 32

/-- A host-port address: 8 bits, naming one word (R10 `AW`, R50). -/
abbrev Address := BitVec 8

/-- `DW = max(W, 32)`, the width of host-port data (R10, R53). -/
abbrev dataBits (w : Nat) : Nat := max w 32

/-- Host-port data (R53). -/
abbrev HostData (w : Nat) := BitVec (dataBits w)

end Sys2Proof
end

