-- ==== Sys2Proof/Config.lean ====
section
/-! DEFINITION. What an instance of the hardware fixes: the lane width (the one open parameter, R8) and the constants that
are the same in every instance (R9, R10). -/

namespace Sys2Proof

/-- The admitted values of the open parameter `W` (R8: 8, 16, 32 and 64). -/
inductive LaneWidth where
  | w8
  | w16
  | w32
  | w64
  deriving DecidableEq, Repr

/-- `W` in bits. -/
def LaneWidth.bits : LaneWidth → Nat
  | .w8 => 8
  | .w16 => 16
  | .w32 => 32
  | .w64 => 64

/-- DESIGN CHOICE (unsafe, log entry 2): the width of the one instance that `State.reset` describes. The spec leaves `W`
open; the machine itself is defined at all four widths. -/
def Config.resetWidth : LaneWidth := .w8

/-- `DELTA`, the key-schedule constant (R9). -/
def Config.delta : Scalar := 0x9e3779b9#32

/-- `SL`, the left shift amount (R9). -/
def Config.shiftLeft : Nat := 4

/-- `SR`, the right shift amount (R9). -/
def Config.shiftRight : Nat := 5

/-- `RCANON`, the canonical round count, which is also what `ROUNDS` holds after reset (R9, R10). -/
def Config.canonicalRounds : Scalar := 32#32

end Sys2Proof
end

