-- ==== Sys2Proof/Syntax.lean ====
section
/-! DEFINITION. The command set: one constructor per row of spec/opcode_table.json. -/

namespace Sys2Proof

/-- The two commands (R2, R83). Neither has an explicit operand: the block pair, the subkeys and the round count are implicit
and fixed (R82). -/
inductive Instr where
  /-- `ENCRYPT` (R150). -/
  | encrypt
  /-- `DECRYPT` (R151). -/
  | decrypt
  deriving DecidableEq, Repr

end Sys2Proof
end

