-- ==== Sys2Proof/WellFormed.lean ====
section
/-! DEFINITION. Well-formedness. A command has no operand, so every command is well formed (R82); what can be ill formed is a
command WORD, by one of the two checks of format `C` (R81): the reserved field, and the operation code. -/

namespace Sys2Proof

/-- Field `RSV`, bits 31:8 of a command word (R81). -/
def rsvField (c : Scalar) : BitVec 24 := c.extractLsb' 8 24

/-- Field `OP`, bits 7:0 of a command word (R81). -/
def opField (c : Scalar) : BitVec 8 := c.extractLsb' 0 8

/-- A command word is legal exactly when `RSV = 0` and `OP` is `0x01` or `0x02` (R81). -/
def legalWord (c : Scalar) : Bool :=
  rsvField c == 0#24 && (opField c == 0x01#8 || opField c == 0x02#8)

/-- No command has an operand that could be out of range (R82), so there is nothing to check. -/
def Instr.wf : Instr → Bool
  | .encrypt => true
  | .decrypt => true

end Sys2Proof
end

