-- ==== Sys2Proof/Decode.lean ====
section
/-! DEFINITION. Decoding a command word, total on all 32-bit words, rejecting by name, and the encoder (R80 to R84). The decoder
is the opcode map of R83 (match and mask); the encoder is format `C` of R81. -/

namespace Sys2Proof

/-- Why a word is no command (R81, R84). Both raise `IllegalCommand`; the difference is not recorded by the hardware (93 S5). -/
inductive DecodeError where
  /-- Some bit of `RSV` (31:8) is set. -/
  | reservedBitsSet
  /-- `RSV` is 0 and `OP` is neither `0x01` nor `0x02`. -/
  | unknownOperation
  deriving DecidableEq, Repr

/-- One row of the opcode map (R83). -/
structure CommandRow where
  command : Instr
  mask    : Scalar
  pattern : Scalar
  deriving DecidableEq, Repr

/-- The complete opcode map (R83). -/
def commandRows : List CommandRow :=
  [⟨.encrypt, 0xFFFFFFFF#32, 0x00000001#32⟩,
   ⟨.decrypt, 0xFFFFFFFF#32, 0x00000002#32⟩]

/-- "A command word `c` selects a row when `(c AND mask) = match`" (R83). -/
def CommandRow.selects (r : CommandRow) (c : Scalar) : Bool := c &&& r.mask == r.pattern

/-- The name under which a word that selects no row is rejected. -/
def rejection (c : Scalar) : DecodeError :=
  if rsvField c = 0#24 then .unknownOperation else .reservedBitsSet

/-- Decode a command word: the row it selects, or a rejection by name (R80, R83, R84). -/
def decode (c : Scalar) : Except DecodeError Instr :=
  match commandRows.find? (·.selects c) with
  | some r => .ok r.command
  | none => .error (rejection c)

/-- Format `C`: `RSV = 0` in bits 31:8 and the operation code in bits 7:0 (R81). -/
def formatC (op : BitVec 8) : Scalar := 0#24 ++ op

/-- The operation code of a command (R83). -/
def opcode : Instr → BitVec 8
  | .encrypt => 0x01#8
  | .decrypt => 0x02#8

/-- The command word of a command (R81, R83). -/
def encode (i : Instr) : Scalar := formatC (opcode i)

/-- The command word of a table row of `nbits` bits whose bits are `w`: the bits above `nbits` are 0, and a command word has
exactly 32 bits (R80), so nothing above bit 31 exists (log entry 13). -/
def tableWord (nbits w : Nat) : Scalar := BitVec.ofNat 32 (w % 2 ^ nbits)

/-- What the decoder reads from a table row's bits. -/
def decodeTableWord (nbits w : Nat) : Option Instr := (decode (tableWord nbits w)).toOption

end Sys2Proof
end

