-- ==== Sys2Proof/Machine/State.lean ====
section
/-! DEFINITION. The state of the machine as plain data (10_state.md): the engine's state exactly as R20 and R35 list it, and
beside it the model's own fields: which width the instance has, what the host is about to do, in which order the two agents
move, and what the host has read. -/

namespace Sys2Proof.Machine

/-- The whole state of one engine of lane width `w` (R20, R35). -/
structure Engine (w : Nat) where
  /-- First half of the block pair (R21). -/
  v0     : HalfBlock w
  /-- Second half of the block pair (R21). -/
  v1     : HalfBlock w
  /-- Subkey 0 (R22). -/
  k0     : HalfBlock w
  /-- Subkey 1 (R22). -/
  k1     : HalfBlock w
  /-- Subkey 2 (R22). -/
  k2     : HalfBlock w
  /-- Subkey 3 (R22). -/
  k3     : HalfBlock w
  /-- `SUM`, the round accumulator (R24). -/
  sum    : Scalar
  /-- `RCNT`, the rounds still to run (R25). -/
  rcnt   : Scalar
  /-- `ROUNDS`, the round count of the next command (R26). -/
  rounds : Scalar
  /-- `STATUS.BUSY` (R27). -/
  busy   : Bool
  /-- `STATUS.DONE` (R27). -/
  done   : Bool
  /-- `STATUS.DIR`: false for ENCRYPT, true for DECRYPT (R27). -/
  dir    : Bool
  /-- `STATUS.ERR`, the sticky fault flag (R27, R170). -/
  err    : Bool
  /-- `STATUS.ECODE`, the cause of the first fault since reset (R27, R171). -/
  ecode  : BitVec 4
  deriving DecidableEq, Repr

/-- The six half-blocks of the operand store, in address order (R51). -/
inductive HalfName where
  | v0
  | v1
  | k0
  | k1
  | k2
  | k3
  deriving DecidableEq, Repr

/-- What a host-port address names (R51). -/
inductive Target where
  /-- Lane word `i` of a half-block, `0x00 .. 0xBF`. -/
  | lane (h : HalfName) (i : Fin 32)
  /-- `0xC0`. -/
  | rounds
  /-- `0xC1`. -/
  | cmd
  /-- `0xC2`. -/
  | status
  /-- `0xC3`. -/
  | sum
  /-- `0xC4`. -/
  | rcnt
  /-- `0xC5 .. 0xFF`. -/
  | unmapped
  deriving DecidableEq, Repr

/-- The causes of a recorded fault of the host interface (R171). These are recorded in `STATUS`; none of them stops the
machine. -/
inductive FaultCause where
  | illegalCommand
  | busyAccess
  | badAccess
  deriving DecidableEq, Repr

/-- One event of the host agent (R7, R86), and the pseudo-operation `POLL` (R87). -/
inductive HostEvent (w : Nat) where
  /-- `WR a, d`: `HostWrite(a, d)` (R54). -/
  | write (a : Address) (d : HostData w)
  /-- `RD a`: `HostRead(a)` (R55). -/
  | read (a : Address)
  /-- `POLL`: repeat `RD STATUS` until the value read has bit 0 equal to 0 (R87). -/
  | poll
  /-- `RESET`: the reset event (R190). -/
  | reset
  deriving DecidableEq, Repr

/-- The two agents that take steps (R7). -/
inductive Agent where
  | engine
  | host
  deriving DecidableEq, Repr

/-- The machine: one engine, and the host at its port.

`width` is the open parameter `W` of this instance (R8): no step changes it (log entry 1).
`script`, `sched` and `reads` are the model's own, the host's side of the port: they carry nothing into the engine but the
transactions themselves (log entries 3, 5, 7). -/
structure State where
  /-- The lane width of the instance. -/
  width  : LaneWidth
  /-- The engine (R20). -/
  engine : Engine width.bits
  /-- The host events still to come, oldest first (R86). -/
  script : List (HostEvent width.bits)
  /-- Which agent moves in each of the next steps (R65, R199). -/
  sched  : List Agent
  /-- The values host reads have returned, newest first (R55). -/
  reads  : List (HostData width.bits)
  deriving DecidableEq, Repr

/-- Reasons the machine could stop with a fault: there are none. The spec's faults are recorded in `STATUS` and "control goes
nowhere" (R170); the datapath raises nothing (R174). Safe: nothing is stopped that the hardware goes on from (log entry 9). -/
inductive Fault where
  deriving DecidableEq, Repr

/-- Reasons a step could be refused. -/
inductive Refusal where
  /-- Raised by an arm of `exec` whose command has no meaning yet; no arm raises it now. Safe. -/
  | notModelled (mnemonic : String)
  deriving DecidableEq, Repr

/-- The half-block whose lane words are all `ZERO` (R14, R34). -/
def zeroHalf (w : Nat) : HalfBlock w := Vector.replicate 32 0#w

/-- The engine right after reset: every value is the spec's (R34, R190). -/
def Engine.reset (w : Nat) : Engine w where
  v0 := zeroHalf w
  v1 := zeroHalf w
  k0 := zeroHalf w
  k1 := zeroHalf w
  k2 := zeroHalf w
  k3 := zeroHalf w
  sum := 0#32
  rcnt := 0#32
  rounds := Config.canonicalRounds
  busy := false
  done := false
  dir := false
  err := false
  ecode := 0#4

/-- The machine of width `width` right after reset, with no host event pending, no turn prescribed and nothing read yet
(DESIGN CHOICE for these three fields of the model's own, log entry 12). -/
def State.resetAt (width : LaneWidth) : State where
  width := width
  engine := Engine.reset width.bits
  script := []
  sched := []
  reads := []

/-- The machine right after reset, at the width `Config.resetWidth` (log entry 2). -/
def State.reset : State := State.resetAt Config.resetWidth

end Sys2Proof.Machine
end

