-- ==== Sys2Proof/Machine/Ops.lean ====
section
/-! DEFINITION. The named operations over the state: lane words of a half-block, the operand store, recording a fault (the one
operation by which anything "raises", R170), the reset event (R190), and the host's side of the port. -/

namespace Sys2Proof

/-- Lane word `i` of a half-block, `H[i]` (R11); positions above 31 do not exist and no rule reads one
(DESIGN CHOICE: `ZERO` there, so that the function is total; log entry 14). -/
def HalfBlock.word {w : Nat} (H : HalfBlock w) (i : Nat) : LaneWord w := H.toList.getD i 0#w

/-- The half-block whose lane word at position `i` is `f i`: the loop `for i in 0..31` of R16. -/
def HalfBlock.tabulate {w : Nat} (f : Nat → LaneWord w) : HalfBlock w :=
  ⟨⟨(List.range 32).map f⟩, by simp⟩

end Sys2Proof

namespace Sys2Proof.Machine

variable {w : Nat}

/-- A half-block of the operand store by its name (R51). -/
def Engine.half (e : Engine w) : HalfName → HalfBlock w
  | .v0 => e.v0
  | .v1 => e.v1
  | .k0 => e.k0
  | .k1 => e.k1
  | .k2 => e.k2
  | .k3 => e.k3

/-- Replace one half-block of the operand store. -/
def Engine.setHalf (e : Engine w) (h : HalfName) (H : HalfBlock w) : Engine w :=
  match h with
  | .v0 => { e with v0 := H }
  | .v1 => { e with v1 := H }
  | .k0 => { e with k0 := H }
  | .k1 => { e with k1 := H }
  | .k2 => { e with k2 := H }
  | .k3 => { e with k3 := H }

/-- Read one lane word of the operand store, `OPR[a]` (R50, R51). -/
def Engine.readLane (e : Engine w) (h : HalfName) (i : Fin 32) : LaneWord w := (e.half h)[i]

/-- Write one lane word of the operand store, and nothing else (R54). -/
def Engine.writeLane (e : Engine w) (h : HalfName) (i : Fin 32) (x : LaneWord w) : Engine w :=
  e.setHalf h ((e.half h).set i x)

/-- Write `ROUNDS`, and nothing else (R54). -/
def Engine.writeRounds (e : Engine w) (r : Scalar) : Engine w := { e with rounds := r }

/-- The code of a fault cause (R171). -/
def FaultCause.code : FaultCause → BitVec 4
  | .illegalCommand => 1#4
  | .busyAccess => 2#4
  | .badAccess => 3#4

/-- `raise X`: set `ERR`, and set `ECODE` if `ERR` was 0; nothing else (R170). Taking a fault is this one operation: there is no
handler, no vector, no saved state and no return (R176). -/
def Engine.record (e : Engine w) (c : FaultCause) : Engine w :=
  { e with
    ecode := if e.err then e.ecode else c.code
    err := true }

/-- Replace the engine's state, leaving the host's side alone. -/
def State.withEngine (s : State) (e : Engine s.width.bits) : State := { s with engine := e }

/-- Record a fault in the machine (R170). -/
def State.record (s : State) (c : FaultCause) : State := s.withEngine (s.engine.record c)

/-- The reset event: every piece of the engine's state to its reset value, in every state (R190, R191). What the host is about
to do and what it has already read are the host's, not the engine's (log entry 7). -/
def State.resetEvent (s : State) : State := s.withEngine (Engine.reset s.width.bits)

/-- A host read is answered: the engine is now `e` and the host has read `v` (R55). -/
def State.answer (s : State) (e : Engine s.width.bits) (v : HostData s.width.bits) : State :=
  { s with engine := e, reads := v :: s.reads }

/-- Replace the host events still to come. -/
def State.withScript (s : State) (l : List (HostEvent s.width.bits)) : State := { s with script := l }

/-- The agent that takes the next step: the one prescribed, and with nothing prescribed the engine while it has an enabled
step, else the host (R199; DESIGN CHOICE, log entry 5). -/
def State.nextAgent (s : State) : Agent :=
  match s.sched with
  | a :: _ => a
  | [] => if s.engine.busy then .engine else .host

/-- Use up one prescribed turn. -/
def State.dropTurn (s : State) : State := { s with sched := s.sched.tail }

/-- Put one host event in front of all others and give the host the next turn. -/
def State.hostNext (s : State) (ev : HostEvent s.width.bits) : State :=
  { s with script := ev :: s.script, sched := .host :: s.sched }

end Sys2Proof.Machine
end

