-- ==== Sys2Proof/Machine/Flags.lean ====
section
/-! DEFINITION. The `STATUS` register (R27): how the flags make up the word the host reads, what acceptance and completion do to
them, and the level outputs that mirror them (R175). No flag depends on operand data (R31). -/

namespace Sys2Proof.Machine

variable {w : Nat}

/-- The `STATUS` word: bit 0 `BUSY`, bit 1 `DONE`, bit 2 `ERR`, bit 3 `DIR`, bits 7:4 `ECODE`, bits 31:8 read as 0 (R27). -/
def Engine.status (e : Engine w) : Scalar :=
  0#24 ++ e.ecode ++ BitVec.ofBool e.dir ++ BitVec.ofBool e.err ++ BitVec.ofBool e.done ++ BitVec.ofBool e.busy

/-- The flags after a command is accepted: `BUSY` set, `DONE` cleared, `DIR` the direction; `ERR` and `ECODE` untouched
(R150, R151, R152). -/
def Engine.startFlags (e : Engine w) (direction : Bool) : Engine w :=
  { e with busy := true, done := false, dir := direction }

/-- The flags after a completion step: `BUSY` cleared, `DONE` set (R155). -/
def Engine.endFlags (e : Engine w) : Engine w := { e with busy := false, done := true }

/-- Output `busy` (R52, R175). -/
def Engine.busyOutput (e : Engine w) : Bool := e.status.getLsbD 0

/-- Output `done` (R52, R175). -/
def Engine.doneOutput (e : Engine w) : Bool := e.status.getLsbD 1

/-- Output `err` (R52, R175). -/
def Engine.errOutput (e : Engine w) : Bool := e.status.getLsbD 2

end Sys2Proof.Machine
end

