-- ==== Sys2Proof/Machine/Lanes.lean ====
section
/-! DEFINITION. Lane-word primitives and lane semantics (40_lane_primitives.md, 00_scope.md R11 to R14). `AND`, `OR`, `XOR` and
`NOT` of lane words (R100 to R103) are `&&&`, `|||`, `^^^` and `~~~` on `BitVec w`, which keep the result to `w` bits. -/

namespace Sys2Proof

variable {w : Nat}

/-- `ZERO`: every bit 0 (R14, R104). -/
def laneZero (w : Nat) : LaneWord w := 0#w

/-- `ONES`: every bit 1 (R14, R104). -/
def laneOnes (w : Nat) : LaneWord w := BitVec.allOnes w

/-- `HBXOR3(A, B, C)`: position by position exclusive or (R105). -/
def hbxor3 (A B C : HalfBlock w) : HalfBlock w :=
  HalfBlock.tabulate fun i => A.word i ^^^ B.word i ^^^ C.word i

/-- The number whose bit `i` is bit `j` of the `i`-th lane word of a list: the sum of R12, least significant position first. -/
def laneSum (j : Nat) : List (LaneWord w) → Nat
  | [] => 0
  | x :: xs => (x.getLsbD j).toNat + 2 * laneSum j xs

/-- `lane(H, j)`: the 32-bit value that lane `j` carries (R12). -/
def lane (H : HalfBlock w) (j : Nat) : BitVec 32 := BitVec.ofNat 32 (laneSum j H.toList)

/-- `sum over j of bit i of x_j * 2^j` for the values of a list, lane 0 first (R13). -/
def packSum (i : Nat) : List (BitVec 32) → Nat
  | [] => 0
  | x :: xs => (x.getLsbD i).toNat + 2 * packSum i xs

/-- `pack(x_0, .., x_{W-1})`: the half-block with `lane(H, j) = x_j` (R13). -/
def pack (xs : List (BitVec 32)) : HalfBlock w := HalfBlock.tabulate fun i => BitVec.ofNat w (packSum i xs)

/-- `splat(x)`: the same 32-bit value in every lane (R13). -/
def splat (x : BitVec 32) : HalfBlock w := pack (List.replicate w x)

end Sys2Proof
end

