-- ==== Sys2Proof/Machine/Adder.lean ====
section
/-! DEFINITION. The bitsliced ripple-carry adder and ripple-borrow subtractor (41_adder_subtractor.md). Both run from position 0 to
position 31 with one carry or borrow lane word, `ZERO` at the start and dropped at the end. -/

namespace Sys2Proof

variable {w : Nat}

/-- The recurrence of R110 from one position upward: `c` is `carry[i]`, the heads are `A[i]` and `B[i]`. -/
def rippleAdd : List (LaneWord w) → List (LaneWord w) → LaneWord w → List (LaneWord w)
  | a :: as, b :: bs, c => (a ^^^ b ^^^ c) :: rippleAdd as bs ((a &&& b) ||| (c &&& (a ^^^ b)))
  | _, _, _ => []

/-- The recurrence of R112 from one position upward: `c` is `borrow[i]`, the heads are `A[i]` and `B[i]`. -/
def rippleSub : List (LaneWord w) → List (LaneWord w) → LaneWord w → List (LaneWord w)
  | a :: as, b :: bs, c => (a ^^^ b ^^^ c) :: rippleSub as bs ((~~~a &&& b) ||| (~~~a &&& c) ||| (b &&& c))
  | _, _, _ => []

theorem rippleAdd_length (as bs : List (LaneWord w)) (c : LaneWord w) :
    (rippleAdd as bs c).length = min as.length bs.length := by
  induction as generalizing bs c with
  | nil => simp [rippleAdd]
  | cons a as ih =>
    cases bs with
    | nil => simp [rippleAdd]
    | cons b bs => simp [rippleAdd, ih]

theorem rippleSub_length (as bs : List (LaneWord w)) (c : LaneWord w) :
    (rippleSub as bs c).length = min as.length bs.length := by
  induction as generalizing bs c with
  | nil => simp [rippleSub]
  | cons a as ih =>
    cases bs with
    | nil => simp [rippleSub]
    | cons b bs => simp [rippleSub, ih]

/-- `BSADD(A, B)` (R110). -/
def bsadd (A B : HalfBlock w) : HalfBlock w :=
  ⟨⟨rippleAdd A.toList B.toList (laneZero w)⟩, by simp [rippleAdd_length]⟩

/-- `BSSUB(A, B)`: `A` the minuend, `B` the subtrahend (R112). -/
def bssub (A B : HalfBlock w) : HalfBlock w :=
  ⟨⟨rippleSub A.toList B.toList (laneZero w)⟩, by simp [rippleSub_length]⟩

end Sys2Proof
end

