-- ==== Sys2Proof/Machine/Injector.lean ====
section
/-! DEFINITION. The round-constant injector (43_constant_injector.md). -/

namespace Sys2Proof

/-- `BCAST(x, i)`: `ONES` if bit `i` of `x` is 1, else `ZERO` (R130). -/
def bcast (w : Nat) (x : Scalar) (i : Nat) : LaneWord w := if x.getLsbD i then laneOnes w else laneZero w

/-- `BSCONST(x)` (R131). -/
def bsconst (w : Nat) (x : Scalar) : HalfBlock w := HalfBlock.tabulate (bcast w x)

end Sys2Proof
end

