-- ==== Sys2Proof/Machine/Shifter.lean ====
section
/-! DEFINITION. The bitsliced logical shifter (42_shifter.md): re-indexing of positions with `ZERO` at the vacated ones. Defined for
every amount as R123 allows; the engine uses left by 4 and right by 5 only. -/

namespace Sys2Proof

variable {w : Nat}

/-- `BSSHL(H, s)` (R120). -/
def bsshl (H : HalfBlock w) (s : Nat) : HalfBlock w :=
  HalfBlock.tabulate fun i => if s ≤ i then H.word (i - s) else laneZero w

/-- `BSSHR(H, s)` (R121). -/
def bsshr (H : HalfBlock w) (s : Nat) : HalfBlock w :=
  HalfBlock.tabulate fun i => if i < 32 - s then H.word (i + s) else laneZero w

end Sys2Proof
end

