-- ==== Sys2Proof/Machine/Round.lean ====
section
/-! DEFINITION. The round function, forward and inverse (44_round_function.md). The subkey pairing and the update order are those of
R135 and R140 (90_conflicts.md C1, C5). -/

namespace Sys2Proof

variable {w : Nat}

/-- What a round yields: the triple `(v0', v1', sum')` (R139, R141). -/
structure RoundState (w : Nat) where
  v0  : HalfBlock w
  v1  : HalfBlock w
  sum : Scalar
  deriving DecidableEq, Repr

/-- `MIX(v, ka, kb, x)`: the exclusive or of the three terms (R136). -/
def mix (v ka kb : HalfBlock w) (x : Scalar) : HalfBlock w :=
  hbxor3 (bsadd (bsshl v Config.shiftLeft) ka) (bsadd v (bsconst w x)) (bsadd (bsshr v Config.shiftRight) kb)

/-- `FROUND`, one encryption round: `sum` advances first, then `v0` from the old `v1`, then `v1` from the new `v0` (R139). -/
def fround (v0 v1 k0 k1 k2 k3 : HalfBlock w) (sum : Scalar) : RoundState w :=
  let sum' := sum + Config.delta
  let v0' := bsadd v0 (mix v1 k0 k1 sum')
  let v1' := bsadd v1 (mix v0' k2 k3 sum')
  ⟨v0', v1', sum'⟩

/-- `IROUND`, one decryption round: `v1` from the current `v0`, then `v0` from the restored `v1`, then `sum` steps back
(R141). -/
def iround (v0 v1 k0 k1 k2 k3 : HalfBlock w) (sum : Scalar) : RoundState w :=
  let v1' := bssub v1 (mix v0 k2 k3 sum)
  let v0' := bssub v0 (mix v1' k0 k1 sum)
  ⟨v0', v1', sum - Config.delta⟩

/-- `n` forward rounds in sequence (R156). -/
def forwardRounds (k0 k1 k2 k3 : HalfBlock w) : Nat → RoundState w → RoundState w
  | 0, b => b
  | n + 1, b => forwardRounds k0 k1 k2 k3 n (fround b.v0 b.v1 k0 k1 k2 k3 b.sum)

/-- `n` inverse rounds in sequence (R156). -/
def inverseRounds (k0 k1 k2 k3 : HalfBlock w) : Nat → RoundState w → RoundState w
  | 0, b => b
  | n + 1, b => inverseRounds k0 k1 k2 k3 n (iround b.v0 b.v1 k0 k1 k2 k3 b.sum)

/-- `(DELTA * r) mod 2^32`, native scalar arithmetic on public values (R151, R156). -/
def deltaTimes (r : Nat) : Scalar := Config.delta * BitVec.ofNat 32 r

/-- `ENC(v0, v1, k0..k3, r)`, the big-step meaning of an `ENCRYPT` run (R156). -/
def encRun (v0 v1 k0 k1 k2 k3 : HalfBlock w) (r : Nat) : RoundState w :=
  forwardRounds k0 k1 k2 k3 r ⟨v0, v1, 0#32⟩

/-- `DEC(v0, v1, k0..k3, r)`, the big-step meaning of a `DECRYPT` run (R156). -/
def decRun (v0 v1 k0 k1 k2 k3 : HalfBlock w) (r : Nat) : RoundState w :=
  inverseRounds k0 k1 k2 k3 r ⟨v0, v1, deltaTimes r⟩

end Sys2Proof
end

