-- ==== Sys2Proof/Machine/Driver.lean ====
section
/-! DEFINITION. The transform driver (45_transform_driver.md): the meanings of the two commands (their acceptance, R150 to R152), and
the engine's own steps: a round step each (R153, R154) and the completion step (R155). -/

namespace Sys2Proof.Machine

variable {w : Nat}

/-- The writes of `ENCRYPT` at acceptance (R150). -/
def Engine.acceptEncrypt (e : Engine w) : Engine w :=
  { e.startFlags false with sum := 0#32, rcnt := e.rounds }

/-- The writes of `DECRYPT` at acceptance (R151). -/
def Engine.acceptDecrypt (e : Engine w) : Engine w :=
  { e.startFlags true with sum := Config.delta * e.rounds, rcnt := e.rounds }

/-- `ENCRYPT` (R150): accepted while idle; during a run the write that carries it records `BusyAccess` instead (R57, R150;
DEDUCED, log entry 4). The
rounds that follow are the engine's own steps, `engineStep`. -/
def execEncrypt (s : State) : Host.Outcome State Fault Refusal :=
  .next (if s.engine.busy then s.record .busyAccess else s.withEngine s.engine.acceptEncrypt)

/-- `DECRYPT` (R151): accepted while idle; during a run the write that carries it records `BusyAccess` instead (R57, R151;
DEDUCED, log entry 4). The
rounds that follow are the engine's own steps, `engineStep`. -/
def execDecrypt (s : State) : Host.Outcome State Fault Refusal :=
  .next (if s.engine.busy then s.record .busyAccess else s.withEngine s.engine.acceptDecrypt)

/-- Put a round's result into `V0`, `V1` and `SUM` and count the round off (R153, R154). -/
def Engine.finishRound (e : Engine w) (b : RoundState w) : Engine w :=
  { e with v0 := b.v0, v1 := b.v1, sum := b.sum, rcnt := e.rcnt - 1#32 }

/-- The forward round step (R153). -/
def Engine.forwardStep (e : Engine w) : Engine w :=
  e.finishRound (fround e.v0 e.v1 e.k0 e.k1 e.k2 e.k3 e.sum)

/-- The inverse round step (R154). -/
def Engine.inverseStep (e : Engine w) : Engine w :=
  e.finishRound (iround e.v0 e.v1 e.k0 e.k1 e.k2 e.k3 e.sum)

/-- The engine's enabled step: a round while `RCNT` is not 0, then completion; an idle engine does nothing (R153, R154,
R155). -/
def Engine.engineStep (e : Engine w) : Engine w :=
  if e.busy then
    if e.rcnt = 0#32 then e.endFlags
    else if e.dir then e.inverseStep
    else e.forwardStep
  else e

end Sys2Proof.Machine
end

