-- ==== Sys2Proof/Machine/Operands.lean ====
section
/-! DEFINITION. How a host transaction's address and data name and carry operands: the address map (R51) and the width rules
(R53). -/

namespace Sys2Proof.Machine

/-- The half-block number `h = 0..5` in the order `V0, V1, K0, K1, K2, K3` (R51). -/
def HalfName.ofNumber : Nat → Option HalfName
  | 0 => some .v0
  | 1 => some .v1
  | 2 => some .k0
  | 3 => some .k1
  | 4 => some .k2
  | 5 => some .k3
  | _ => none

/-- The address of position 0 of a half-block (R51). -/
def HalfName.base : HalfName → Address
  | .v0 => 0x00#8
  | .v1 => 0x20#8
  | .k0 => 0x40#8
  | .k1 => 0x60#8
  | .k2 => 0x80#8
  | .k3 => 0xA0#8

/-- The address map: `OPR[a]` for `a = 0x20 * h + i` is lane word `i` of half-block number `h`; above the operand store stand
the five control words; the rest is unmapped (R50, R51). -/
def Target.ofAddress (a : Address) : Target :=
  match HalfName.ofNumber (a.toNat / 32) with
  | some h => .lane h ⟨a.toNat % 32, Nat.mod_lt _ (by decide)⟩
  | none =>
    match a.toNat with
    | 0xC0 => .rounds
    | 0xC1 => .cmd
    | 0xC2 => .status
    | 0xC3 => .sum
    | 0xC4 => .rcnt
    | _ => .unmapped

/-- `trunc_W(d)`: what a write to a lane word stores (R53). -/
def truncLane {w : Nat} (d : HostData w) : LaneWord w := d.setWidth w

/-- `trunc_32(d)`: what a write to `ROUNDS` or `CMD` uses (R53). -/
def truncScalar {w : Nat} (d : HostData w) : Scalar := d.setWidth 32

/-- `zext_DW` of a lane word: what a read of it returns (R53). -/
def zextLane {w : Nat} (x : LaneWord w) : HostData w := x.setWidth (dataBits w)

/-- `zext_DW` of a 32-bit control word: what a read of it returns (R53). -/
def zextScalar {w : Nat} (x : Scalar) : HostData w := x.setWidth (dataBits w)

end Sys2Proof.Machine
end

