-- ==== Sys2Proof/Machine/HostPort.lean ====
section
/-! DEFINITION. The host port (20_memory.md R54 to R58) and the command port behind `CMD` (30_encoding.md R80). -/

namespace Sys2Proof.Machine

variable {w : Nat}

/-- `Command(c)`: a legal word is the command it decodes to; any other raises `IllegalCommand` (R80, R84). -/
def command (s : State) (c : Scalar) : Host.Outcome State Fault Refusal :=
  match decode c with
  | .ok i => exec i s
  | .error _ => .next (s.record .illegalCommand)

/-- `HostWrite(a, d)` (R54). The busy test comes first (R56). -/
def hostWrite (s : State) (a : Address) (d : HostData s.width.bits) : Host.Outcome State Fault Refusal :=
  if s.engine.busy then .next (s.record .busyAccess)
  else
    match Target.ofAddress a with
    | .lane h i => .next (s.withEngine (s.engine.writeLane h i (truncLane d)))
    | .rounds => .next (s.withEngine (s.engine.writeRounds (truncScalar d)))
    | .cmd => command s (truncScalar d)
    | .status => .next (s.record .badAccess)
    | .sum => .next (s.record .badAccess)
    | .rcnt => .next (s.record .badAccess)
    | .unmapped => .next (s.record .badAccess)

/-- An access that is allowed only while the engine is idle; during a run it is `BusyAccess` whatever it names (R56, R57). -/
def Engine.whenIdle (e : Engine w) (x : Except FaultCause (HostData w)) : Except FaultCause (HostData w) :=
  if e.busy then .error .busyAccess else x

/-- What a host read of an address yields: a value, or the fault it raises (R55, R58). `STATUS` can be read at any time. -/
def Engine.readPort (e : Engine w) (a : Address) : Except FaultCause (HostData w) :=
  match Target.ofAddress a with
  | .status => .ok (zextScalar e.status)
  | .lane h i => e.whenIdle (.ok (zextLane (e.readLane h i)))
  | .rounds => e.whenIdle (.ok (zextScalar e.rounds))
  | .sum => e.whenIdle (.ok (zextScalar e.sum))
  | .rcnt => e.whenIdle (.ok (zextScalar e.rcnt))
  | .cmd => e.whenIdle (.error .badAccess)
  | .unmapped => e.whenIdle (.error .badAccess)

/-- `HostRead(a)`: the value returned goes to the host; a faulting read returns 0 and records its fault (R55, R57, R58). -/
def hostRead (s : State) (a : Address) : State :=
  match s.engine.readPort a with
  | .ok v => s.answer s.engine v
  | .error c => s.answer (s.engine.record c) 0

end Sys2Proof.Machine
end

