-- ==== Sys2Proof/Machine/HostScript.lean ====
section
/-! DEFINITION. The pseudo-operations of the host script, each as its expansion (R87). `POLL` is an event of its own, since how
often it reads `STATUS` depends on what it reads. -/

namespace Sys2Proof.Machine

variable {w : Nat}

/-- The address of `ROUNDS` (R51). -/
def roundsAddress : Address := 0xC0#8

/-- The address of `CMD` (R51). -/
def cmdAddress : Address := 0xC1#8

/-- The address of `STATUS` (R51). -/
def statusAddress : Address := 0xC2#8

/-- `LDHB base, H`: 32 writes (R87). -/
def ldhb (h : HalfName) (H : HalfBlock w) : List (HostEvent w) :=
  (List.range 32).map fun i => .write (h.base + BitVec.ofNat 8 i) (zextLane (H.word i))

/-- `RDHB base -> H`: 32 reads (R87). -/
def rdhb (h : HalfName) : List (HostEvent w) :=
  (List.range 32).map fun i => .read (h.base + BitVec.ofNat 8 i)

/-- `WR CMD, <the command's word>`. -/
def writeCommand (c : Scalar) : HostEvent w := .write cmdAddress (zextScalar c)

/-- `ENC` (R87). -/
def encOp : List (HostEvent w) := [writeCommand (encode .encrypt)]

/-- `DEC` (R87). -/
def decOp : List (HostEvent w) := [writeCommand (encode .decrypt)]

/-- `ENCRYPT r`: write `ROUNDS`, write `CMD`, `POLL` (R87). -/
def encryptCall (r : Scalar) : List (HostEvent w) :=
  [.write roundsAddress (zextScalar r), writeCommand (encode .encrypt), .poll]

/-- `DECRYPT r`: write `ROUNDS`, write `CMD`, `POLL` (R87). -/
def decryptCall (r : Scalar) : List (HostEvent w) :=
  [.write roundsAddress (zextScalar r), writeCommand (encode .decrypt), .poll]

end Sys2Proof.Machine
end

