-- ==== Sys2Proof/Machine/Turns.lean ====
section
/-! DEFINITION. A turn of the system: one atomic step of one of the two agents (R7, R65, R199). -/

namespace Sys2Proof.Machine

/-- One reading of `POLL`: `STATUS` is read, and the `POLL` is put back in front of the script when the value read has `BUSY = 1`
(R87; DEDUCED, log entry 8). -/
def State.pollOnce (s : State) : State :=
  { s with
    script := if s.engine.busy then .poll :: s.script else s.script
    reads := zextScalar s.engine.status :: s.reads }

/-- The host performs one event, which has been taken off the script. -/
def hostEvent (s : State) (ev : HostEvent s.width.bits) : Host.Outcome State Fault Refusal :=
  match ev with
  | .write a d => hostWrite s a d
  | .read a => .next (hostRead s a)
  | .poll => .next s.pollOnce
  | .reset => .next s.resetEvent

/-- The host's turn: its next event, or nothing if it has none (DEDUCED, log entry 6). -/
def hostTurn (s : State) : Host.Outcome State Fault Refusal :=
  match s.script with
  | [] => .next s
  | ev :: rest => hostEvent (s.withScript rest) ev

/-- The engine's turn: its enabled step, or nothing if it is idle (R155; DEDUCED, log entry 6). -/
def engineTurn (s : State) : Host.Outcome State Fault Refusal := .next (s.withEngine s.engine.engineStep)

/-- The next agent takes its turn. -/
def takeTurn (s : State) : Host.Outcome State Fault Refusal :=
  match s.nextAgent with
  | .engine => engineTurn s.dropTurn
  | .host => hostTurn s.dropTurn

/-- The host's very next transaction is the write of the command word `c` to `CMD`. -/
def State.placeCommand (s : State) (c : Scalar) : State := s.hostNext (writeCommand c)

end Sys2Proof.Machine
end

