-- ==== Sys2Proof/Machine/Step.lean ====
section
/-! DEFINITION. The step function, and how a command word is placed where the machine takes its next one: there is no program
counter and nothing is fetched (R30); the machine's next command is the word the host next writes to `CMD` (R80). -/

namespace Sys2Proof.Machine

/-- One atomic step of the system: the next agent takes its turn (R65, R199). -/
def step (s : State) : Host.Outcome State Fault Refusal := takeTurn s

/-- The state in which the host's very next transaction writes the command word with these bits to `CMD` (log entry 12). -/
def State.withFetchWord (s : State) (nbits w : Nat) : State := s.placeCommand (tableWord nbits w)

end Sys2Proof.Machine
end

