-- ==== Sys2Proof/Safety.lean ====
section
/-! DEFINITION. The terms in which claims about the machine are stated: the invariants of R35, what is public (R108), what one lane
sees (R106), the word-level TEA rounds (R137, R142, R157), and engines side by side (R184). -/

namespace Sys2Proof

/-! ### Word-level TEA, one lane at a time -/

/-- The 32-bit mixing function of one lane (R137). -/
def teaMix (v ka kb x : BitVec 32) : BitVec 32 := (v * 16#32 + ka) ^^^ (v + x) ^^^ (v / 32#32 + kb)

/-- One lane's block and the accumulator. -/
structure TeaBlock where
  v0  : BitVec 32
  v1  : BitVec 32
  sum : BitVec 32
  deriving DecidableEq, Repr

/-- The word-level forward round (R142). -/
def teaForward (k0 k1 k2 k3 : BitVec 32) (b : TeaBlock) : TeaBlock :=
  let sum' := b.sum + 0x9e3779b9#32
  let v0' := b.v0 + teaMix b.v1 k0 k1 sum'
  ⟨v0', b.v1 + teaMix v0' k2 k3 sum', sum'⟩

/-- The word-level inverse round (R142). -/
def teaInverse (k0 k1 k2 k3 : BitVec 32) (b : TeaBlock) : TeaBlock :=
  let v1' := b.v1 - teaMix b.v0 k2 k3 b.sum
  ⟨b.v0 - teaMix v1' k0 k1 b.sum, v1', b.sum - 0x9e3779b9#32⟩

/-- The `r`-round TEA encryption of one block (R157). -/
def teaEncrypt (k0 k1 k2 k3 v0 v1 : BitVec 32) (r : Nat) : TeaBlock :=
  (teaForward k0 k1 k2 k3)^[r] ⟨v0, v1, 0#32⟩

/-- The `r`-round TEA decryption of one block (R157). -/
def teaDecrypt (k0 k1 k2 k3 v0 v1 : BitVec 32) (r : Nat) : TeaBlock :=
  (teaInverse k0 k1 k2 k3)^[r] ⟨v0, v1, BitVec.ofNat 32 (0x9e3779b9 * r)⟩

/-- What lane `j` sees of a round's result. -/
def RoundState.laneView {w : Nat} (b : RoundState w) (j : Nat) : TeaBlock := ⟨lane b.v0 j, lane b.v1 j, b.sum⟩

/-! ### Engines side by side -/

/-- Two half-blocks side by side: the lanes of `A` first, those of `B` above them (R184). -/
def joinHalf {w w' : Nat} (A : HalfBlock w) (B : HalfBlock w') : HalfBlock (w' + w) :=
  HalfBlock.tabulate fun i => B.word i ++ A.word i

end Sys2Proof

namespace Sys2Proof.Machine

variable {w : Nat}

/-- The invariants of R35, for an engine. The round count of the run in progress is `ROUNDS` itself, which cannot change while
`BUSY = 1` (R57). -/
abbrev Engine.Inv (e : Engine w) : Prop :=
  (e.busy = true → e.done = false) ∧
  (e.busy = false → e.rcnt = 0#32) ∧
  (e.err = false ↔ e.ecode = 0#4) ∧
  e.ecode.toNat ≤ 3 ∧
  (e.busy = true → e.dir = false → e.sum = 0x9e3779b9#32 * (e.rounds - e.rcnt)) ∧
  (e.busy = true → e.dir = true → e.sum = 0x9e3779b9#32 * e.rcnt)

/-- The invariants of R35, for the machine. -/
abbrev State.Inv (s : State) : Prop := s.engine.Inv

/-- No fault has been recorded since reset: the premise and conclusion R173 asks of claims about a host program. -/
abbrev State.FaultFree (s : State) : Prop := s.engine.err = false

/-- Two engines that differ at most in the operand store: the public part of the state is the same (R108). -/
abbrev Engine.PublicEq (e e' : Engine w) : Prop :=
  e.sum = e'.sum ∧ e.rcnt = e'.rcnt ∧ e.rounds = e'.rounds ∧ e.busy = e'.busy ∧ e.done = e'.done ∧ e.dir = e'.dir ∧
  e.err = e'.err ∧ e.ecode = e'.ecode

/-- Two engines that differ at most in the fault fields (R170, R173). -/
abbrev Engine.EqButFaults (e e' : Engine w) : Prop := e' = { e with err := e'.err, ecode := e'.ecode }

/-- How many engine steps are left of the run in progress (R156, R163). -/
def Engine.stepsLeft (e : Engine w) : Nat := if e.busy then e.rcnt.toNat + 1 else 0

/-- What recording a fault of this code does to an engine: `ERR` set, `ECODE` set if `ERR` was 0, nothing else (R170). -/
def Engine.faulted (e : Engine w) (code : BitVec 4) : Engine w :=
  { e with
    err := true
    ecode := if e.err = false then code else e.ecode }

/-- Two engines that differ at most in the contents of the operand store. -/
abbrev Engine.EqButStore (e e' : Engine w) : Prop :=
  e' = { e with v0 := e'.v0, v1 := e'.v1, k0 := e'.k0, k1 := e'.k1, k2 := e'.k2, k3 := e'.k3 }

/-- The half-block number of R51: the order `V0, V1, K0, K1, K2, K3`. -/
def HalfName.number : HalfName → Nat
  | .v0 => 0
  | .v1 => 1
  | .k0 => 2
  | .k1 => 3
  | .k2 => 4
  | .k3 => 5

/-- The address `0x20 * h + i` of lane word `i` of half-block number `h` (R51). -/
def laneAddress (h : HalfName) (i : Fin 32) : Address := BitVec.ofNat 8 (0x20 * h.number + i)

/-- The big-step meaning of a command on an engine's operands (R156). -/
def Engine.bigStep (e : Engine w) (r : Nat) : Instr → RoundState w
  | .encrypt => encRun e.v0 e.v1 e.k0 e.k1 e.k2 e.k3 r
  | .decrypt => decRun e.v0 e.v1 e.k0 e.k1 e.k2 e.k3 r

/-- The engine a run of the command leaves: the big-step result, `RCNT = 0`, `BUSY = 0`, `DONE = 1`, `DIR` the direction
(R150, R151, R156). -/
def Engine.afterRun (e : Engine w) (i : Instr) : Engine w :=
  { e with
    v0 := (e.bigStep e.rounds.toNat i).v0
    v1 := (e.bigStep e.rounds.toNat i).v1
    sum := (e.bigStep e.rounds.toNat i).sum
    rcnt := 0#32
    busy := false
    done := true
    dir := i == .decrypt }

/-- What lane `j` of an engine holds: its block, and the accumulator all lanes share (R157). -/
def Engine.laneBlock (e : Engine w) (j : Nat) : TeaBlock := ⟨lane e.v0 j, lane e.v1 j, e.sum⟩

/-- One step of the machine answers a next state of the same width, whose engine is `e`. -/
def State.Goes (s : State) (e : Engine s.width.bits) : Prop :=
  ∃ sc sd rd, step s = .next ⟨s.width, e, sc, sd, rd⟩

/-- The host moves next and its next event is `ev` (R65, R86). -/
def State.HostDoes (s : State) (ev : HostEvent s.width.bits) : Prop := s.nextAgent = .host ∧ s.script.head? = some ev

/-- The machine with the next host event and the next prescribed turn used up: the bookkeeping of a host turn, the model's own
(log entries 3 and 5). -/
def State.afterEvent (s : State) : State := { s with script := s.script.tail, sched := s.sched.tail }

end Sys2Proof.Machine
end

