-- ==== Sys2Proof/Certificates/Slice0/Obligations.lean ====
section
/-! DEFINITION. The statements for the provers. Statements about host transactions and engine steps are made about the operations
`hostWrite`, `hostRead`, `hostEvent` and `Engine.engineStep`; `StepTakesTurns` says how `step` performs them. -/

open Sys2Proof Sys2Proof.Machine

/-! ### Command words -/

/-- R83: the two words of the opcode map and two words that are no command. -/
def Obligations.CommandWordsDecode : Prop :=
  decode 0x00000001#32 = .ok .encrypt ∧ decode 0x00000002#32 = .ok .decrypt ∧
  encode .encrypt = 0x00000001#32 ∧ encode .decrypt = 0x00000002#32 ∧
  decode 0x00000000#32 = .error .unknownOperation ∧ decode 0x00000101#32 = .error .reservedBitsSet

/-- R80, R83: decoding and encoding agree in both directions, and every word but two is rejected. -/
def Obligations.DecodeInvertsEncode : Prop :=
  ∀ c : Scalar, (∀ i, decode c = .ok i ↔ c = encode i) ∧
    ((∃ err, decode c = .error err) ↔ c ≠ 0x00000001#32 ∧ c ≠ 0x00000002#32)

/-- R81: "A command word is legal exactly when `RSV = 0` and `OP` is `0x01` or `0x02`." -/
def Obligations.LegalWordsByFields : Prop :=
  ∀ c : Scalar, (∃ i, decode c = .ok i) ↔
    (c.extractLsb' 8 24 = 0x000000#24 ∧ (c.extractLsb' 0 8 = 0x01#8 ∨ c.extractLsb' 0 8 = 0x02#8))

/-- A command's encoding, placed where the machine takes its next command, runs as that command, in every state: while idle it is
accepted (R80, R83), and during a run the write that carries it is turned away with `BusyAccess` (R57), which `exec` records too
(log entry 4). How the word is placed is the model's bookkeeping (log entries 3, 5 and 12). -/
def Obligations.EncodedCommandRuns : Prop :=
  ∀ (i : Instr) (s : State), step (s.withFetchWord 32 (encode i).toNat) = exec i s

/-! ### Lanes and datapath -/

/-- R12, R13: a half-block is determined by its lane values, and any lane values are those of a half-block. -/
def Obligations.LanesDetermineHalfBlock : Prop :=
  ∀ w : Nat, (∀ A B : HalfBlock w, (∀ j, j < w → lane A j = lane B j) → A = B) ∧
    (∀ xs : List (BitVec 32), xs.length = w → ∀ j (h : j < xs.length), lane (pack xs : HalfBlock w) j = xs[j])

/-- R105. -/
def Obligations.HalfBlockXorPerLane : Prop :=
  ∀ (w : Nat) (A B C : HalfBlock w),
    (∀ i, i < 32 → (hbxor3 A B C).word i = A.word i ^^^ B.word i ^^^ C.word i) ∧
    (∀ j, j < w → lane (hbxor3 A B C) j = lane A j ^^^ lane B j ^^^ lane C j) ∧
    hbxor3 A A C = C

/-- R110: the adder's recurrence. -/
def Obligations.AdderRecurrence : Prop :=
  ∀ (w : Nat) (A B : HalfBlock w), ∃ carry : Nat → LaneWord w,
    carry 0 = laneZero w ∧
    ∀ i, i < 32 →
      (bsadd A B).word i = A.word i ^^^ B.word i ^^^ carry i ∧
      carry (i + 1) = (A.word i &&& B.word i) ||| (carry i &&& (A.word i ^^^ B.word i))

/-- R111. -/
def Obligations.AdderAddsPerLane : Prop :=
  ∀ (w : Nat) (A B : HalfBlock w) (j : Nat), j < w →
    (lane (bsadd A B) j).toNat = ((lane A j).toNat + (lane B j).toNat) % 2 ^ 32

/-- R112: the subtractor's recurrence. -/
def Obligations.SubtractorRecurrence : Prop :=
  ∀ (w : Nat) (A B : HalfBlock w), ∃ borrow : Nat → LaneWord w,
    borrow 0 = laneZero w ∧
    ∀ i, i < 32 →
      (bssub A B).word i = A.word i ^^^ B.word i ^^^ borrow i ∧
      borrow (i + 1) = (~~~(A.word i) &&& B.word i) ||| (~~~(A.word i) &&& borrow i) ||| (B.word i &&& borrow i)

/-- R113. -/
def Obligations.SubtractorSubtractsPerLane : Prop :=
  ∀ (w : Nat) (A B : HalfBlock w) (j : Nat), j < w →
    ((lane (bssub A B) j).toNat : Int) = ((lane A j).toNat - (lane B j).toNat : Int) % 2 ^ 32

/-- R115. -/
def Obligations.SubtractorUndoesAdder : Prop :=
  ∀ (w : Nat) (A B : HalfBlock w), bssub (bsadd A B) B = A ∧ bsadd (bssub A B) B = A

/-- R116: no result position depends on a higher operand position. -/
def Obligations.PositionsDependOnLowerOnes : Prop :=
  ∀ (w : Nat) (A B A' B' : HalfBlock w) (i : Nat), i < 32 →
    (∀ k, k ≤ i → A.word k = A'.word k ∧ B.word k = B'.word k) →
    (bsadd A B).word i = (bsadd A' B').word i ∧ (bssub A B).word i = (bssub A' B').word i

/-- R120, R121: the shifter, position by position. -/
def Obligations.ShifterMovesPositions : Prop :=
  ∀ (w : Nat) (H : HalfBlock w) (s i : Nat), i < 32 →
    (bsshl H s).word i = (if i ≥ s then H.word (i - s) else laneZero w) ∧
    (bsshr H s).word i = (if i < 32 - s then H.word (i + s) else laneZero w)

/-- R122. -/
def Obligations.ShifterShiftsPerLane : Prop :=
  ∀ (w : Nat) (H : HalfBlock w) (s j : Nat), s ≤ 31 → j < w →
    (lane (bsshl H s) j).toNat = ((lane H j).toNat * 2 ^ s) % 2 ^ 32 ∧
    (lane (bsshr H s) j).toNat = (lane H j).toNat / 2 ^ s

/-- R130, R131, R132: the injector broadcasts each bit, so every lane holds the constant. -/
def Obligations.InjectorPerLane : Prop :=
  ∀ (w : Nat) (x : Scalar),
    (∀ i, i < 32 → (bsconst w x).word i = if x.getLsbD i then laneOnes w else laneZero w) ∧
    bsconst w x = splat x ∧ ∀ j, j < w → lane (bsconst w x) j = x

/-- R137: `MIX` is TEA's mixing function in every lane. -/
def Obligations.MixPerLane : Prop :=
  ∀ (w : Nat) (v ka kb : HalfBlock w) (x : Scalar) (j : Nat), j < w →
    lane (mix v ka kb x) j = teaMix (lane v j) (lane ka j) (lane kb j) x

/-- R142: the rounds are the word-level TEA rounds in every lane. -/
def Obligations.RoundsPerLane : Prop :=
  ∀ (w : Nat) (v0 v1 k0 k1 k2 k3 : HalfBlock w) (sum : Scalar) (j : Nat), j < w →
    (fround v0 v1 k0 k1 k2 k3 sum).laneView j =
      teaForward (lane k0 j) (lane k1 j) (lane k2 j) (lane k3 j) ⟨lane v0 j, lane v1 j, sum⟩ ∧
    (iround v0 v1 k0 k1 k2 k3 sum).laneView j =
      teaInverse (lane k0 j) (lane k1 j) (lane k2 j) (lane k3 j) ⟨lane v0 j, lane v1 j, sum⟩

/-- R143. -/
def Obligations.InverseRoundInvertsForwardRound : Prop :=
  ∀ (w : Nat) (v0 v1 k0 k1 k2 k3 : HalfBlock w) (sum : Scalar),
    (∀ a b s, fround v0 v1 k0 k1 k2 k3 sum = ⟨a, b, s⟩ → iround a b k0 k1 k2 k3 s = ⟨v0, v1, sum⟩) ∧
    (∀ a b s, iround v0 v1 k0 k1 k2 k3 sum = ⟨a, b, s⟩ → fround a b k0 k1 k2 k3 s = ⟨v0, v1, sum⟩)

/-- R157: what `ENC` and `DEC` compute is word-level TEA in every lane, and so is what a run of the machine leaves. -/
def Obligations.RunsAreTeaPerLane : Prop :=
  (∀ (w : Nat) (v0 v1 k0 k1 k2 k3 : HalfBlock w) (r j : Nat), j < w →
    (encRun v0 v1 k0 k1 k2 k3 r).laneView j =
      teaEncrypt (lane k0 j) (lane k1 j) (lane k2 j) (lane k3 j) (lane v0 j) (lane v1 j) r ∧
    (decRun v0 v1 k0 k1 k2 k3 r).laneView j =
      teaDecrypt (lane k0 j) (lane k1 j) (lane k2 j) (lane k3 j) (lane v0 j) (lane v1 j) r) ∧
  ∀ (s : State) (j : Nat), s.engine.busy = false → j < s.width.bits →
    (∃ e, exec .encrypt s = .next (s.withEngine e) ∧
      (Engine.engineStep^[s.engine.rounds.toNat + 1] e).laneBlock j =
        teaEncrypt (lane s.engine.k0 j) (lane s.engine.k1 j) (lane s.engine.k2 j) (lane s.engine.k3 j)
          (lane s.engine.v0 j) (lane s.engine.v1 j) s.engine.rounds.toNat) ∧
    ∃ e, exec .decrypt s = .next (s.withEngine e) ∧
      (Engine.engineStep^[s.engine.rounds.toNat + 1] e).laneBlock j =
        teaDecrypt (lane s.engine.k0 j) (lane s.engine.k1 j) (lane s.engine.k2 j) (lane s.engine.k3 j)
          (lane s.engine.v0 j) (lane s.engine.v1 j) s.engine.rounds.toNat

/-- R158: the round trip of `ENC` and `DEC`, and that of two runs with the same `ROUNDS` and subkeys. -/
def Obligations.DecryptionUndoesEncryption : Prop :=
  (∀ (w : Nat) (v0 v1 k0 k1 k2 k3 : HalfBlock w) (r : Nat),
    (∀ a b s, encRun v0 v1 k0 k1 k2 k3 r = ⟨a, b, s⟩ → decRun a b k0 k1 k2 k3 r = ⟨v0, v1, 0#32⟩) ∧
    (∀ a b s, decRun v0 v1 k0 k1 k2 k3 r = ⟨a, b, s⟩ →
      encRun a b k0 k1 k2 k3 r = ⟨v0, v1, BitVec.ofNat 32 (0x9e3779b9 * r)⟩)) ∧
  ∀ s : State, s.engine.busy = false → ∃ e f : Engine s.width.bits,
    exec .encrypt s = .next (s.withEngine e) ∧
    exec .decrypt (s.withEngine (Engine.engineStep^[s.engine.rounds.toNat + 1] e)) = .next (s.withEngine f) ∧
    (Engine.engineStep^[s.engine.rounds.toNat + 1] f).v0 = s.engine.v0 ∧
    (Engine.engineStep^[s.engine.rounds.toNat + 1] f).v1 = s.engine.v1

/-- R159. -/
def Obligations.AccumulatorSymmetry : Prop :=
  ∀ (w : Nat) (v0 v1 k0 k1 k2 k3 : HalfBlock w) (r : Nat),
    (encRun v0 v1 k0 k1 k2 k3 r).sum = BitVec.ofNat 32 (0x9e3779b9 * r) ∧
    (decRun v0 v1 k0 k1 k2 k3 r).sum = 0#32 ∧
    (encRun v0 v1 k0 k1 k2 k3 32).sum = 0xC6EF3720#32

/-- R106: what a run leaves in one lane depends on that lane alone. -/
def Obligations.LanesNeverInteract : Prop :=
  ∀ (w : Nat) (v0 v1 k0 k1 k2 k3 v0' v1' k0' k1' k2' k3' : HalfBlock w) (r j : Nat), j < w →
    lane v0 j = lane v0' j → lane v1 j = lane v1' j → lane k0 j = lane k0' j → lane k1 j = lane k1' j →
    lane k2 j = lane k2' j → lane k3 j = lane k3' j →
    (encRun v0 v1 k0 k1 k2 k3 r).laneView j = (encRun v0' v1' k0' k1' k2' k3' r).laneView j ∧
    (decRun v0 v1 k0 k1 k2 k3 r).laneView j = (decRun v0' v1' k0' k1' k2' k3' r).laneView j

/-- R184: two engines side by side compute what one engine with all their lanes computes. -/
def Obligations.EnginesSideBySide : Prop :=
  ∀ (w w' : Nat) (v0 v1 k0 k1 k2 k3 : HalfBlock w) (u0 u1 q0 q1 q2 q3 : HalfBlock w') (r : Nat),
    encRun (joinHalf v0 u0) (joinHalf v1 u1) (joinHalf k0 q0) (joinHalf k1 q1) (joinHalf k2 q2) (joinHalf k3 q3) r =
      ⟨joinHalf (encRun v0 v1 k0 k1 k2 k3 r).v0 (encRun u0 u1 q0 q1 q2 q3 r).v0,
       joinHalf (encRun v0 v1 k0 k1 k2 k3 r).v1 (encRun u0 u1 q0 q1 q2 q3 r).v1,
       (encRun v0 v1 k0 k1 k2 k3 r).sum⟩ ∧
    decRun (joinHalf v0 u0) (joinHalf v1 u1) (joinHalf k0 q0) (joinHalf k1 q1) (joinHalf k2 q2) (joinHalf k3 q3) r =
      ⟨joinHalf (decRun v0 v1 k0 k1 k2 k3 r).v0 (decRun u0 u1 q0 q1 q2 q3 r).v0,
       joinHalf (decRun v0 v1 k0 k1 k2 k3 r).v1 (decRun u0 u1 q0 q1 q2 q3 r).v1,
       (decRun v0 v1 k0 k1 k2 k3 r).sum⟩

/-! ### The two commands -/

/-- R150, R152: `ENCRYPT` completes its acceptance in every idle state, with exactly these writes. -/
def Obligations.EncryptIsAccepted : Prop :=
  ∀ s : State, s.engine.busy = false →
    exec .encrypt s = .next { s with engine := { s.engine with
      sum := 0#32, rcnt := s.engine.rounds, dir := false, busy := true, done := false } }

/-- R151, R152: `DECRYPT` completes its acceptance in every idle state, with exactly these writes. -/
def Obligations.DecryptIsAccepted : Prop :=
  ∀ s : State, s.engine.busy = false →
    exec .decrypt s = .next { s with engine := { s.engine with
      sum := BitVec.ofNat 32 (0x9e3779b9 * s.engine.rounds.toNat),
      rcnt := s.engine.rounds, dir := true, busy := true, done := false } }

/-- R150, R151, R57: a command whose word is written during a run is turned away with `BusyAccess` and nothing else. The rules say
it of the write that carries the command; that `exec` does so too is the model's inference (log entry 4). -/
def Obligations.CommandDuringRunFaults : Prop :=
  ∀ (i : Instr) (s : State), s.engine.busy = true →
    exec i s = .next { s with engine := { s.engine with
      err := true, ecode := if s.engine.err then s.engine.ecode else 2#4 } }

/-- The frame of both commands: nothing of the operand store, `ROUNDS`, the width, the host's events and reads changes; the fault
fields do not change where the command is accepted, and nothing else changes where it is not. The rules say the latter of the
write that carries the command (R57); that `exec` drops a command during a run too is the model's inference (log entry 4). -/
def Obligations.CommandFrame : Prop :=
  ∀ (i : Instr) (s t : State), exec i s = .next t → ∃ e : Engine s.width.bits, t = s.withEngine e ∧
    (∀ h k, e.readLane h k = s.engine.readLane h k) ∧ e.rounds = s.engine.rounds ∧
    (s.engine.busy = false → e.err = s.engine.err ∧ e.ecode = s.engine.ecode) ∧
    (s.engine.busy = true → e.sum = s.engine.sum ∧ e.rcnt = s.engine.rcnt ∧ e.busy = s.engine.busy ∧
      e.done = s.engine.done ∧ e.dir = s.engine.dir)

/-- R24, R33: an accepted command does not depend on what `SUM`, `RCNT`, `DONE` and `DIR` held before it. -/
def Obligations.CommandsHaveNoHistory : Prop :=
  ∀ (i : Instr) (s : State) (x y : Scalar) (p q : Bool), s.engine.busy = false →
    exec i (s.withEngine { s.engine with sum := x, rcnt := y, done := p, dir := q }) = exec i s

/-- R156: a run is the acceptance, exactly `ROUNDS` round steps during which it stays busy, and one completion step, and leaves what
`ENC` or `DEC` computes. -/
def Obligations.RunComputesBigStep : Prop :=
  ∀ (i : Instr) (s : State), s.engine.busy = false → ∃ e : Engine s.width.bits,
    exec i s = .next (s.withEngine e) ∧
    (∀ k, k ≤ s.engine.rounds.toNat →
      (Engine.engineStep^[k] e).busy = true ∧
      (Engine.engineStep^[k] e).rcnt.toNat = s.engine.rounds.toNat - k) ∧
    Engine.engineStep^[s.engine.rounds.toNat + 1] e = s.engine.afterRun i

/-- The whole way of one command through `step`: its word placed, its acceptance, its rounds, its completion. That the engine
moves while it is busy and no turn is prescribed is the model's choice (log entry 5), and that nothing else is pending is a
premise. -/
def Obligations.PlacedCommandRunsToCompletion : Prop :=
  ∀ (i : Instr) (s : State), s.engine.busy = false → s.sched = [] →
    core.run (s.engine.rounds.toNat + 2) (s.withFetchWord 32 (encode i).toNat) =
      .next (s.withEngine (s.engine.afterRun i))

/-- R160: zero rounds. -/
def Obligations.ZeroRoundsChangeNothing : Prop :=
  ∀ (i : Instr) (s : State), s.engine.busy = false → s.engine.rounds = 0#32 → ∃ e : Engine s.width.bits,
    exec i s = .next (s.withEngine e) ∧ e.busy = true ∧
    e.engineStep = { s.engine with
      sum := 0#32, rcnt := 0#32, busy := false, done := true, dir := i == .decrypt }

/-! ### The engine's own steps -/

/-- R153. -/
def Obligations.ForwardRoundStep : Prop :=
  ∀ (w : Nat) (e : Engine w), e.busy = true → e.dir = false → e.rcnt ≠ 0#32 →
    e.engineStep = { e with
      v0 := (fround e.v0 e.v1 e.k0 e.k1 e.k2 e.k3 e.sum).v0
      v1 := (fround e.v0 e.v1 e.k0 e.k1 e.k2 e.k3 e.sum).v1
      sum := (fround e.v0 e.v1 e.k0 e.k1 e.k2 e.k3 e.sum).sum
      rcnt := e.rcnt - 1#32 }

/-- R154. -/
def Obligations.InverseRoundStep : Prop :=
  ∀ (w : Nat) (e : Engine w), e.busy = true → e.dir = true → e.rcnt ≠ 0#32 →
    e.engineStep = { e with
      v0 := (iround e.v0 e.v1 e.k0 e.k1 e.k2 e.k3 e.sum).v0
      v1 := (iround e.v0 e.v1 e.k0 e.k1 e.k2 e.k3 e.sum).v1
      sum := (iround e.v0 e.v1 e.k0 e.k1 e.k2 e.k3 e.sum).sum
      rcnt := e.rcnt - 1#32 }

/-- R155: the completion step, and the idle engine. -/
def Obligations.CompletionStep : Prop :=
  ∀ (w : Nat) (e : Engine w),
    (e.busy = true → e.rcnt = 0#32 → e.engineStep = { e with busy := false, done := true }) ∧
    (e.busy = false → e.engineStep = e)

/-- R163: each engine step of a busy engine brings its run one step nearer its end, and only a reset changes how many are left
otherwise while it is busy. -/
def Obligations.RunsTerminate : Prop :=
  ∀ (s : State) (e : Engine s.width.bits), s.engine.busy = true → s.Goes e →
    (s.nextAgent = .engine → e.stepsLeft + 1 = s.engine.stepsLeft) ∧
    (s.nextAgent = .host → ¬ s.HostDoes .reset → e.stepsLeft = s.engine.stepsLeft)

/-! ### The host port -/

/-- R54: `HostWrite(a, d)`, clause by clause. -/
def Obligations.HostWriteAsSpecified : Prop :=
  ∀ (s : State) (a : Address) (d : HostData s.width.bits),
    (s.engine.busy = true → hostWrite s a d = .next (s.withEngine (s.engine.faulted 2#4))) ∧
    (s.engine.busy = false →
      (a.toNat ≤ 0xBF → ∃ e, hostWrite s a d = .next (s.withEngine e) ∧ s.engine.EqButStore e ∧
        ∀ h i, e.readLane h i =
          if laneAddress h i = a then d.setWidth s.width.bits else s.engine.readLane h i) ∧
      (a = 0xC0#8 → hostWrite s a d = .next (s.withEngine { s.engine with rounds := d.setWidth 32 })) ∧
      (a = 0xC1#8 → hostWrite s a d =
        if d.setWidth 32 = 0x00000001#32 then exec .encrypt s
        else if d.setWidth 32 = 0x00000002#32 then exec .decrypt s
        else .next (s.withEngine (s.engine.faulted 1#4))) ∧
      (0xC2 ≤ a.toNat → hostWrite s a d = .next (s.withEngine (s.engine.faulted 3#4))))

/-- R55: `HostRead(a)`, clause by clause; the value returned is the newest of `reads` (log entry 7). -/
def Obligations.HostReadAsSpecified : Prop :=
  ∀ (s : State) (a : Address),
    (a = 0xC2#8 → hostRead s a = s.answer s.engine (s.engine.status.setWidth (dataBits s.width.bits))) ∧
    (a ≠ 0xC2#8 → s.engine.busy = true → hostRead s a = s.answer (s.engine.faulted 2#4) 0) ∧
    (s.engine.busy = false →
      (∀ h i, a = laneAddress h i →
        hostRead s a = s.answer s.engine ((s.engine.readLane h i).setWidth (dataBits s.width.bits))) ∧
      (a = 0xC0#8 → hostRead s a = s.answer s.engine (s.engine.rounds.setWidth (dataBits s.width.bits))) ∧
      (a = 0xC3#8 → hostRead s a = s.answer s.engine (s.engine.sum.setWidth (dataBits s.width.bits))) ∧
      (a = 0xC4#8 → hostRead s a = s.answer s.engine (s.engine.rcnt.setWidth (dataBits s.width.bits))) ∧
      (a = 0xC1#8 ∨ 0xC5 ≤ a.toNat → hostRead s a = s.answer (s.engine.faulted 3#4) 0))

/-- R53: every lane word and every 32-bit control word survives the port; a write keeps the low bits and a read returns them with
zeros above. -/
def Obligations.PortWidths : Prop :=
  ∀ (w : Nat) (x : LaneWord w) (c : Scalar) (d : HostData w),
    truncLane (zextLane x) = x ∧ truncScalar (zextScalar c : HostData w) = c ∧
    (truncLane d).toNat = d.toNat % 2 ^ w ∧ (truncScalar d).toNat = d.toNat % 2 ^ 32 ∧
    (zextLane x).toNat = x.toNat ∧ (zextScalar c : HostData w).toNat = c.toNat

/-- R84: an illegal command word while idle. -/
def Obligations.IllegalCommandFaults : Prop :=
  ∀ (s : State) (d : HostData s.width.bits), s.engine.busy = false →
    d.setWidth 32 ≠ 0x00000001#32 → d.setWidth 32 ≠ 0x00000002#32 →
    hostWrite s 0xC1#8 d = .next (s.withEngine { s.engine with
      err := true, ecode := if s.engine.err then s.engine.ecode else 1#4 })

/-- R57: during a run every host event but a reset leaves the engine alone save for the fault fields; a write and a read of anything
but `STATUS` fault, and the read returns 0. -/
def Obligations.RunIsUndisturbed : Prop :=
  ∀ (s : State) (ev : HostEvent s.width.bits), s.engine.busy = true → ev ≠ .reset →
    ∃ e sc rd, hostEvent s ev = .next ⟨s.width, e, sc, s.sched, rd⟩ ∧ s.engine.EqButFaults e ∧
      (∀ a d, ev = .write a d → e = s.engine.faulted 2#4 ∧ rd = s.reads) ∧
      (∀ a, ev = .read a → a ≠ 0xC2#8 → e = s.engine.faulted 2#4 ∧ rd = 0 :: s.reads)

/-- R58: the bad accesses while idle, all of them. -/
def Obligations.BadAccessFaults : Prop :=
  ∀ (s : State) (a : Address), s.engine.busy = false →
    (a = 0xC2#8 ∨ a = 0xC3#8 ∨ a = 0xC4#8 ∨ 0xC5 ≤ a.toNat →
      ∀ d, hostWrite s a d = .next (s.withEngine (s.engine.faulted 3#4))) ∧
    (a = 0xC1#8 ∨ 0xC5 ≤ a.toNat → hostRead s a = s.answer (s.engine.faulted 3#4) 0)

/-- R65: a read returns the most recent write to that location. -/
def Obligations.ReadReturnsLastWrite : Prop :=
  ∀ (s : State) (h : HalfName) (i : Fin 32) (d : HostData s.width.bits), s.engine.busy = false →
    ∃ e, hostWrite s (laneAddress h i) d = .next (s.withEngine e) ∧
      ∀ h' i', hostRead (s.withEngine e) (laneAddress h' i') =
        if h' = h ∧ i' = i then (s.withEngine e).answer e ((d.setWidth s.width.bits).setWidth (dataBits s.width.bits))
        else (s.withEngine e).answer e ((s.engine.readLane h' i').setWidth (dataBits s.width.bits))

/-- R63: the order in which the host fills the operand store does not matter. -/
def Obligations.StoreWritesCommute : Prop :=
  ∀ (s : State) (a b : Address) (x y : HostData s.width.bits), s.engine.busy = false →
    a.toNat ≤ 0xBF → b.toNat ≤ 0xBF → a ≠ b →
    ∃ e f g, hostWrite s a x = .next (s.withEngine e) ∧ hostWrite s b y = .next (s.withEngine f) ∧
      hostWrite (s.withEngine e) b y = .next (s.withEngine g) ∧
      hostWrite (s.withEngine f) a x = .next (s.withEngine g)

/-- R27: the `STATUS` word, its reads and its writes. -/
def Obligations.StatusRegister : Prop :=
  (∀ (w : Nat) (e : Engine w),
    e.status.getLsbD 0 = e.busy ∧ e.status.getLsbD 1 = e.done ∧ e.status.getLsbD 2 = e.err ∧
    e.status.getLsbD 3 = e.dir ∧ e.status.extractLsb' 4 4 = e.ecode ∧ e.status.extractLsb' 8 24 = 0#24 ∧
    (e.Inv → ¬ (e.busy = true ∧ e.done = true))) ∧
  (∀ s : State, hostRead s 0xC2#8 = s.answer s.engine (s.engine.status.setWidth (dataBits s.width.bits))) ∧
  (∀ (s : State) (d : HostData s.width.bits), ∃ e, hostWrite s 0xC2#8 d = .next (s.withEngine e) ∧
    s.engine.EqButFaults e)

/-- R175: the three level outputs. -/
def Obligations.OutputsMirrorStatus : Prop :=
  ∀ (w : Nat) (e : Engine w), e.busyOutput = e.busy ∧ e.doneOutput = e.done ∧ e.errOutput = e.err

/-- R25: while it can be read, `RCNT` reads 0, under the invariant. -/
def Obligations.RcntReadsZero : Prop :=
  ∀ s : State, s.Inv → s.engine.busy = false → hostRead s 0xC4#8 = s.answer s.engine 0

/-- R87: `POLL` reads `STATUS`, and is repeated exactly while the engine is busy. -/
def Obligations.PollRepeatsWhileBusy : Prop :=
  ∀ s : State,
    (s.engine.busy = true → hostEvent s .poll =
      .next { s with script := .poll :: s.script,
                     reads := s.engine.status.setWidth (dataBits s.width.bits) :: s.reads }) ∧
    (s.engine.busy = false → hostEvent s .poll =
      .next { s with reads := s.engine.status.setWidth (dataBits s.width.bits) :: s.reads })

/-! ### Reset -/

/-- R34: the state after reset, at every width. -/
def Obligations.ResetStateAsSpecified : Prop :=
  ∀ width : LaneWidth,
    (∀ h i, (State.resetAt width).engine.readLane h i = 0#width.bits) ∧
    (State.resetAt width).engine.sum = 0#32 ∧ (State.resetAt width).engine.rcnt = 0#32 ∧
    (State.resetAt width).engine.rounds = 32#32 ∧ (State.resetAt width).engine.status = 0x00000000#32

/-- R190, R191: the reset event, in every state. -/
def Obligations.ResetEventAsSpecified : Prop :=
  ∀ s : State, ∃ e, hostEvent s .reset = .next (s.withEngine e) ∧
    (∀ h i, e.readLane h i = 0#s.width.bits) ∧ e.sum = 0#32 ∧ e.rcnt = 0#32 ∧ e.rounds = 32#32 ∧
    e.status = 0x00000000#32 ∧ e.busy = false ∧ e.done = false

/-! ### The machine as a whole -/

/-- How `step` performs the two agents' moves. The order of the agents, where none is prescribed, and the bookkeeping of `script`
and `sched` are the model's choice (log entries 3, 5 and 6). -/
def Obligations.StepTakesTurns : Prop :=
  ∀ s : State,
    (s.nextAgent = .engine → step s = .next { s with sched := s.sched.tail, engine := s.engine.engineStep }) ∧
    (s.nextAgent = .host → s.script = [] → step s = .next { s with sched := s.sched.tail }) ∧
    (∀ ev, s.HostDoes ev → step s = hostEvent s.afterEvent ev) ∧
    (∀ a rest, s.sched = a :: rest → s.nextAgent = a) ∧
    (s.sched = [] → s.nextAgent = if s.engine.busy then .engine else .host)

/-- A step runs the decoded command: the host's next event writes a word to `CMD` that decodes to `i`. What `afterEvent` takes off
is the model's bookkeeping (log entries 3 and 5). -/
def Obligations.StepRunsDecodedCommand : Prop :=
  ∀ (s : State) (d : HostData s.width.bits) (i : Instr), s.HostDoes (.write 0xC1#8 d) →
    decode (d.setWidth 32) = .ok i → step s = exec i s.afterEvent

/-- No step stops and no step changes the lane width. -/
def Obligations.EveryStepAnswersSameWidth : Prop := ∀ s : State, ∃ e, s.Goes e

/-- The invariants of R35 hold at reset, at every width. -/
def Obligations.ResetMeetsInvariants : Prop := (∀ width, (State.resetAt width).Inv) ∧ State.reset.Inv

/-- The invariants of R35 are kept by every step, from every state that meets them. -/
def Obligations.StepKeepsInvariants : Prop := ∀ s t : State, s.Inv → step s = .next t → t.Inv

/-- R170: `ERR` is sticky and `ECODE` keeps the first cause; only a reset event clears them. -/
def Obligations.FirstFaultIsKept : Prop :=
  ∀ (s : State) (e : Engine s.width.bits), s.Goes e → s.engine.err = true → ¬ s.HostDoes .reset →
    e.err = true ∧ e.ecode = s.engine.ecode

/-- R171: only host transactions raise faults, each with its own code, and a fault changes nothing but the fault fields. -/
def Obligations.OnlyTransactionsFault : Prop :=
  ∀ (s : State) (e : Engine s.width.bits), s.Goes e → s.engine.err = false → e.err = true →
    s.nextAgent = .host ∧ s.engine.EqButFaults e ∧
    ((e.ecode = 1#4 ∧ s.engine.busy = false ∧
       ∃ d, d.setWidth 32 ≠ 0x00000001#32 ∧ d.setWidth 32 ≠ 0x00000002#32 ∧ s.HostDoes (.write 0xC1#8 d)) ∨
     (e.ecode = 2#4 ∧ s.engine.busy = true ∧
       ((∃ a d, s.HostDoes (.write a d)) ∨ ∃ a, a ≠ 0xC2#8 ∧ s.HostDoes (.read a))) ∨
     (e.ecode = 3#4 ∧ s.engine.busy = false ∧
       ((∃ a d, 0xC2 ≤ a.toNat ∧ s.HostDoes (.write a d)) ∨
        ∃ a, (a = 0xC1#8 ∨ 0xC5 ≤ a.toNat) ∧ s.HostDoes (.read a))))

/-- R173: a recorded fault does not disturb the machine: two machines that differ in the fault fields only step to machines that
differ in the fault fields only, and they read the same values; but where the host polls or reads `STATUS`, each reads its own
`STATUS` word, put in front of the values read before. -/
def Obligations.FaultsDoNotDisturb : Prop :=
  ∀ (s : State) (p : Bool) (c : BitVec 4), ∃ e e' sc sd rd rd',
    step s = .next ⟨s.width, e, sc, sd, rd⟩ ∧
    step (s.withEngine { s.engine with err := p, ecode := c }) = .next ⟨s.width, e', sc, sd, rd'⟩ ∧
    e.EqButFaults e' ∧
    (rd = rd' ∨
      ((s.HostDoes .poll ∨ s.HostDoes (.read 0xC2#8)) ∧
        rd = s.engine.status.setWidth (dataBits s.width.bits) :: s.reads ∧
        rd' = (Engine.status { s.engine with err := p, ecode := c }).setWidth (dataBits s.width.bits) :: s.reads))

/-- R22, R23: a lane word changes in a host turn only by a reset or a write of that very word while idle; the engine changes `V0` and
`V1` only, and never `ROUNDS`. -/
def Obligations.WhoChangesTheStore : Prop :=
  ∀ (s : State) (e : Engine s.width.bits), s.Goes e →
    (s.nextAgent = .engine →
      e.k0 = s.engine.k0 ∧ e.k1 = s.engine.k1 ∧ e.k2 = s.engine.k2 ∧ e.k3 = s.engine.k3 ∧ e.rounds = s.engine.rounds ∧
      (s.engine.busy = false → e.v0 = s.engine.v0 ∧ e.v1 = s.engine.v1)) ∧
    (s.nextAgent = .host → ∀ h i, e.readLane h i ≠ s.engine.readLane h i →
      s.HostDoes .reset ∨ (s.engine.busy = false ∧ ∃ d, s.HostDoes (.write (laneAddress h i) d)))

/-- R164: `DONE` stays 1 until the next acceptance or reset. -/
def Obligations.DoneStaysUntilNextCommand : Prop :=
  ∀ (s : State) (e : Engine s.width.bits), s.Goes e → s.engine.done = true → e.done = false →
    s.HostDoes .reset ∨
    (s.engine.busy = false ∧ e.busy = true ∧
      ∃ d i, s.HostDoes (.write 0xC1#8 d) ∧ decode (d.setWidth 32) = .ok i)

/-- R108, R197: no step depends on a bit of the operand store but for the lane words an idle host reads: from two machines that
differ in the operand store and in the values read before only, a step gives two machines that differ in these only, and the two
hosts read the same, one value or none, unless the event is a read of a lane word while idle. -/
def Obligations.ControlIsIndependentOfData : Prop :=
  ∀ (width : LaneWidth) (e e' : Engine width.bits) (sc : List (HostEvent width.bits)) (sd : List Agent)
    (rd rd' : List (HostData width.bits)), e.PublicEq e' →
    ∃ f f' sc' sd' new new',
      step ⟨width, e, sc, sd, rd⟩ = .next ⟨width, f, sc', sd', new ++ rd⟩ ∧
      step ⟨width, e', sc, sd, rd'⟩ = .next ⟨width, f', sc', sd', new' ++ rd'⟩ ∧
      f.PublicEq f' ∧ new.length = new'.length ∧ new.length ≤ 1 ∧
      (new = new' ∨ (e.busy = false ∧ ∃ h i, State.HostDoes ⟨width, e, sc, sd, rd⟩ (.read (laneAddress h i))))
end

