-- ==== Sys2Proof/Laws/HalfBlock.lean ====
section
/-! SUPPORT. The small lemmas of half-blocks: a half-block is its 32 words, and its words are its lanes. -/

namespace Sys2Proof

variable {w : Nat}

theorem word_of_lt (H : HalfBlock w) {i : Nat} (h : i < 32) : H.word i = H[i] := by
  simp [HalfBlock.word, h]

@[simp] theorem word_of_ge (H : HalfBlock w) {i : Nat} (h : 32 ≤ i) : H.word i = 0#w := by
  simp [HalfBlock.word, h]

theorem word_tabulate (f : Nat → LaneWord w) (i : Nat) :
    (HalfBlock.tabulate f).word i = if i < 32 then f i else 0#w := by
  by_cases h : i < 32 <;> simp [HalfBlock.tabulate, HalfBlock.word, List.getD_eq_getElem?_getD, h]

@[simp] theorem word_tabulate_of_lt (f : Nat → LaneWord w) {i : Nat} (h : i < 32) :
    (HalfBlock.tabulate f).word i = f i := by
  simp [word_tabulate, h]

/-- A half-block is determined by its 32 lane words. -/
theorem halfBlock_ext {A B : HalfBlock w} (h : ∀ i, i < 32 → A.word i = B.word i) : A = B := by
  apply Vector.ext
  intro i hi
  rw [← word_of_lt A hi, ← word_of_lt B hi]
  exact h i hi

theorem word_set (H : HalfBlock w) (k : Fin 32) (x : LaneWord w) {i : Nat} (h : i < 32) :
    HalfBlock.word (H.set k x) i = if (k : Nat) = i then x else H.word i := by
  rw [word_of_lt _ h, word_of_lt _ h, Vector.getElem_set]

/-- Bit `i` of the sum is bit `j` of word `i`. -/
theorem laneSum_testBit (j : Nat) (l : List (LaneWord w)) (i : Nat) :
    (laneSum j l).testBit i = (l.getD i 0#w).getLsbD j := by
  induction l generalizing i with
  | nil => simp [laneSum]
  | cons x xs ih =>
    cases i with
    | zero => cases h : x.getLsbD j <;> simp [laneSum, h]
    | succ i =>
      have hdiv : laneSum j (x :: xs) / 2 = laneSum j xs := by
        cases h : x.getLsbD j <;> simp [laneSum, h]; omega
      simp only [Nat.testBit_succ, hdiv, ih, List.getD_cons_succ]

theorem laneSum_lt (j : Nat) (l : List (LaneWord w)) : laneSum j l < 2 ^ l.length := by
  induction l with
  | nil => simp [laneSum]
  | cons x xs ih =>
    simp only [laneSum, List.length_cons, Nat.pow_succ]
    have : (x.getLsbD j).toNat ≤ 1 := Bool.toNat_le _
    omega

/-- The lane value as a number is the sum of R12 itself. -/
theorem lane_toNat (H : HalfBlock w) (j : Nat) : (lane H j).toNat = laneSum j H.toList := by
  have h := laneSum_lt j H.toList
  simp only [Vector.length_toList] at h
  simpa [lane] using h

/-- Bit `i` of the value lane `j` carries is bit `j` of lane word `i` (R11, R12). -/
@[simp] theorem lane_getLsbD (H : HalfBlock w) (j i : Nat) :
    (lane H j).getLsbD i = (H.word i).getLsbD j := by
  rw [← BitVec.testBit_toNat, lane_toNat, laneSum_testBit]
  rfl

theorem packSum_testBit (i : Nat) (xs : List (BitVec 32)) (j : Nat) :
    (packSum i xs).testBit j = (xs.getD j 0#32).getLsbD i := by
  induction xs generalizing j with
  | nil => simp [packSum]
  | cons x xs ih =>
    cases j with
    | zero => cases h : x.getLsbD i <;> simp [packSum, h]
    | succ j =>
      have hdiv : packSum i (x :: xs) / 2 = packSum i xs := by
        cases h : x.getLsbD i <;> simp [packSum, h]; omega
      simp only [Nat.testBit_succ, hdiv, ih, List.getD_cons_succ]

end Sys2Proof
end

