-- ==== Sys2Proof/Laws/Datapath.lean ====
section
/-! SUPPORT. One lemma per datapath operation, in terms of words or of lane sums: what later proofs cite instead of unfolding the
operation. -/

namespace Sys2Proof

variable {w : Nat}

theorem toList_bsadd (A B : HalfBlock w) : (bsadd A B).toList = rippleAdd A.toList B.toList (laneZero w) := rfl

theorem toList_bssub (A B : HalfBlock w) : (bssub A B).toList = rippleSub A.toList B.toList (laneZero w) := rfl

/-- One position of the adder in one lane: a one-bit full adder (R111). -/
theorem fullAdder_bits (a b c : Bool) :
    (a ^^ b ^^ c).toNat + 2 * ((a && b) || (c && (a ^^ b))).toNat = a.toNat + b.toNat + c.toNat := by
  revert a b c
  decide

/-- One position of the subtractor in one lane: a one-bit full subtractor (R113). -/
theorem fullSubtractor_bits (a b c : Bool) :
    (a ^^ b ^^ c).toNat + b.toNat + c.toNat = a.toNat + 2 * ((!a && b) || (!a && c) || (b && c)).toNat := by
  revert a b c
  decide

/-- In one lane the ripple-carry recurrence adds: the carry out of the last position is the multiple of `2 ^ length`. -/
theorem laneSum_rippleAdd (j : Nat) (as bs : List (LaneWord w)) (c : LaneWord w)
    (h : as.length = bs.length) :
    ∃ out, out ≤ 1 ∧ laneSum j (rippleAdd as bs c) + 2 ^ as.length * out =
      laneSum j as + laneSum j bs + (c.getLsbD j).toNat := by
  induction as generalizing bs c with
  | nil =>
    obtain rfl : bs = [] := by simpa using h.symm
    exact ⟨(c.getLsbD j).toNat, Bool.toNat_le _, by simp [rippleAdd, laneSum]⟩
  | cons a as ih =>
    obtain ⟨b, bs, rfl⟩ : ∃ b bs', bs = b :: bs' := by
      cases bs with
      | nil => simp at h
      | cons b bs' => exact ⟨b, bs', rfl⟩
    obtain ⟨out, hout, hsum⟩ := ih bs ((a &&& b) ||| (c &&& (a ^^^ b))) (by simpa using h)
    refine ⟨out, hout, ?_⟩
    simp only [rippleAdd, laneSum, List.length_cons, Nat.pow_succ]
    rw [Nat.mul_right_comm]
    have hbit := fullAdder_bits (a.getLsbD j) (b.getLsbD j) (c.getLsbD j)
    simp only [BitVec.getLsbD_or, BitVec.getLsbD_and, BitVec.getLsbD_xor] at hsum ⊢
    omega

/-- In one lane the ripple-borrow recurrence subtracts. -/
theorem laneSum_rippleSub (j : Nat) (hj : j < w) (as bs : List (LaneWord w)) (c : LaneWord w)
    (h : as.length = bs.length) :
    ∃ out, out ≤ 1 ∧ laneSum j (rippleSub as bs c) + laneSum j bs + (c.getLsbD j).toNat =
      laneSum j as + 2 ^ as.length * out := by
  induction as generalizing bs c with
  | nil =>
    obtain rfl : bs = [] := by simpa using h.symm
    exact ⟨(c.getLsbD j).toNat, Bool.toNat_le _, by simp [rippleSub, laneSum]⟩
  | cons a as ih =>
    obtain ⟨b, bs, rfl⟩ : ∃ b bs', bs = b :: bs' := by
      cases bs with
      | nil => simp at h
      | cons b bs' => exact ⟨b, bs', rfl⟩
    obtain ⟨out, hout, hsum⟩ := ih bs ((~~~a &&& b) ||| (~~~a &&& c) ||| (b &&& c)) (by simpa using h)
    refine ⟨out, hout, ?_⟩
    simp only [rippleSub, laneSum, List.length_cons, Nat.pow_succ]
    rw [Nat.mul_right_comm]
    have hbit := fullSubtractor_bits (a.getLsbD j) (b.getLsbD j) (c.getLsbD j)
    simp only [BitVec.getLsbD_or, BitVec.getLsbD_and, BitVec.getLsbD_xor, BitVec.getLsbD_not, hj, decide_true,
      Bool.true_and] at hsum ⊢
    omega

/-- Each position of the ripple depends on the positions up to it only. -/
theorem rippleAdd_take (n : Nat) (as bs : List (LaneWord w)) (c : LaneWord w) :
    (rippleAdd as bs c).take n = rippleAdd (as.take n) (bs.take n) c := by
  induction n generalizing as bs c with
  | zero => cases as <;> cases bs <;> simp [rippleAdd]
  | succ n ih => cases as <;> cases bs <;> simp [rippleAdd, ih]

theorem rippleSub_take (n : Nat) (as bs : List (LaneWord w)) (c : LaneWord w) :
    (rippleSub as bs c).take n = rippleSub (as.take n) (bs.take n) c := by
  induction n generalizing as bs c with
  | zero => cases as <;> cases bs <;> simp [rippleSub]
  | succ n ih => cases as <;> cases bs <;> simp [rippleSub, ih]

theorem word_hbxor3 (A B C : HalfBlock w) (i : Nat) :
    (hbxor3 A B C).word i = A.word i ^^^ B.word i ^^^ C.word i := by
  by_cases h : i < 32
  · simp [hbxor3, h]
  · simp [word_of_ge _ (Nat.le_of_not_lt h)]

theorem word_bsshl (H : HalfBlock w) (s : Nat) {i : Nat} (h : i < 32) :
    (bsshl H s).word i = if s ≤ i then H.word (i - s) else laneZero w := by
  simp [bsshl, h]

theorem word_bsshr (H : HalfBlock w) (s : Nat) {i : Nat} (h : i < 32) :
    (bsshr H s).word i = if i < 32 - s then H.word (i + s) else laneZero w := by
  simp [bsshr, h]

theorem word_bsconst (x : Scalar) {i : Nat} (h : i < 32) : (bsconst w x).word i = bcast w x i := by
  simp [bsconst, h]

theorem bcast_getLsbD (x : Scalar) (i : Nat) {j : Nat} (h : j < w) : (bcast w x i).getLsbD j = x.getLsbD i := by
  cases hx : x.getLsbD i <;> simp [bcast, hx, laneOnes, laneZero, h]

end Sys2Proof
end

