-- ==== Sys2Proof/Laws/Decode.lean ====
section
/-! SUPPORT. The decoder's one spec lemma, and that the opcode map is unambiguous. -/

namespace Sys2Proof

/-- No word selects two rows: two rows differ in some bit that both masks cover. -/
theorem commandRows_pairwise :
    commandRows.Pairwise fun r r' => r.pattern &&& r'.mask ≠ r'.pattern &&& r.mask := by decide

/-- All 32 bits are decoded, so a row is selected by its own word alone. -/
theorem fullMask_and (c : Scalar) : c &&& 0xFFFFFFFF#32 = c := by
  rw [show (0xFFFFFFFF#32) = BitVec.allOnes 32 from rfl, BitVec.and_allOnes]

/-- Everything the decoder can answer. -/
theorem decode_eq (c : Scalar) :
    decode c = if c = 1#32 then .ok .encrypt else if c = 2#32 then .ok .decrypt else .error (rejection c) := by
  by_cases h1 : c = 1#32
  · subst h1; rfl
  · by_cases h2 : c = 2#32
    · subst h2; rfl
    · simp [decode, commandRows, CommandRow.selects, fullMask_and, h1, h2]

/-- A command's word, taken as a table row's bits, is that word. -/
theorem tableWord_toNat (c : Scalar) : tableWord 32 c.toNat = c := by
  simp [tableWord, Nat.mod_eq_of_lt c.isLt]

end Sys2Proof
end

