-- ==== Sys2Proof/Laws/State.lean ====
section
/-! SUPPORT. One lemma per field per update of the engine and of the machine, each true by definition, so that no later proof unfolds
a record update. -/

namespace Sys2Proof.Machine

variable {w : Nat}

/-! `Engine.writeRounds` -/

@[simp] theorem Engine.writeRounds_v0 (e : Engine w) (r : Scalar) : (e.writeRounds r).v0 = e.v0 := rfl
@[simp] theorem Engine.writeRounds_v1 (e : Engine w) (r : Scalar) : (e.writeRounds r).v1 = e.v1 := rfl
@[simp] theorem Engine.writeRounds_k0 (e : Engine w) (r : Scalar) : (e.writeRounds r).k0 = e.k0 := rfl
@[simp] theorem Engine.writeRounds_k1 (e : Engine w) (r : Scalar) : (e.writeRounds r).k1 = e.k1 := rfl
@[simp] theorem Engine.writeRounds_k2 (e : Engine w) (r : Scalar) : (e.writeRounds r).k2 = e.k2 := rfl
@[simp] theorem Engine.writeRounds_k3 (e : Engine w) (r : Scalar) : (e.writeRounds r).k3 = e.k3 := rfl
@[simp] theorem Engine.writeRounds_sum (e : Engine w) (r : Scalar) : (e.writeRounds r).sum = e.sum := rfl
@[simp] theorem Engine.writeRounds_rcnt (e : Engine w) (r : Scalar) : (e.writeRounds r).rcnt = e.rcnt := rfl
@[simp] theorem Engine.writeRounds_rounds (e : Engine w) (r : Scalar) : (e.writeRounds r).rounds = r := rfl
@[simp] theorem Engine.writeRounds_busy (e : Engine w) (r : Scalar) : (e.writeRounds r).busy = e.busy := rfl
@[simp] theorem Engine.writeRounds_done (e : Engine w) (r : Scalar) : (e.writeRounds r).done = e.done := rfl
@[simp] theorem Engine.writeRounds_dir (e : Engine w) (r : Scalar) : (e.writeRounds r).dir = e.dir := rfl
@[simp] theorem Engine.writeRounds_err (e : Engine w) (r : Scalar) : (e.writeRounds r).err = e.err := rfl
@[simp] theorem Engine.writeRounds_ecode (e : Engine w) (r : Scalar) : (e.writeRounds r).ecode = e.ecode := rfl

/-! `Engine.record` -/

@[simp] theorem Engine.record_v0 (e : Engine w) (c : FaultCause) : (e.record c).v0 = e.v0 := rfl
@[simp] theorem Engine.record_v1 (e : Engine w) (c : FaultCause) : (e.record c).v1 = e.v1 := rfl
@[simp] theorem Engine.record_k0 (e : Engine w) (c : FaultCause) : (e.record c).k0 = e.k0 := rfl
@[simp] theorem Engine.record_k1 (e : Engine w) (c : FaultCause) : (e.record c).k1 = e.k1 := rfl
@[simp] theorem Engine.record_k2 (e : Engine w) (c : FaultCause) : (e.record c).k2 = e.k2 := rfl
@[simp] theorem Engine.record_k3 (e : Engine w) (c : FaultCause) : (e.record c).k3 = e.k3 := rfl
@[simp] theorem Engine.record_sum (e : Engine w) (c : FaultCause) : (e.record c).sum = e.sum := rfl
@[simp] theorem Engine.record_rcnt (e : Engine w) (c : FaultCause) : (e.record c).rcnt = e.rcnt := rfl
@[simp] theorem Engine.record_rounds (e : Engine w) (c : FaultCause) : (e.record c).rounds = e.rounds := rfl
@[simp] theorem Engine.record_busy (e : Engine w) (c : FaultCause) : (e.record c).busy = e.busy := rfl
@[simp] theorem Engine.record_done (e : Engine w) (c : FaultCause) : (e.record c).done = e.done := rfl
@[simp] theorem Engine.record_dir (e : Engine w) (c : FaultCause) : (e.record c).dir = e.dir := rfl
@[simp] theorem Engine.record_err (e : Engine w) (c : FaultCause) : (e.record c).err = true := rfl
@[simp] theorem Engine.record_ecode (e : Engine w) (c : FaultCause) : (e.record c).ecode = if e.err then e.ecode else c.code := rfl

/-! `Engine.faulted` -/

@[simp] theorem Engine.faulted_v0 (e : Engine w) (c : BitVec 4) : (e.faulted c).v0 = e.v0 := rfl
@[simp] theorem Engine.faulted_v1 (e : Engine w) (c : BitVec 4) : (e.faulted c).v1 = e.v1 := rfl
@[simp] theorem Engine.faulted_k0 (e : Engine w) (c : BitVec 4) : (e.faulted c).k0 = e.k0 := rfl
@[simp] theorem Engine.faulted_k1 (e : Engine w) (c : BitVec 4) : (e.faulted c).k1 = e.k1 := rfl
@[simp] theorem Engine.faulted_k2 (e : Engine w) (c : BitVec 4) : (e.faulted c).k2 = e.k2 := rfl
@[simp] theorem Engine.faulted_k3 (e : Engine w) (c : BitVec 4) : (e.faulted c).k3 = e.k3 := rfl
@[simp] theorem Engine.faulted_sum (e : Engine w) (c : BitVec 4) : (e.faulted c).sum = e.sum := rfl
@[simp] theorem Engine.faulted_rcnt (e : Engine w) (c : BitVec 4) : (e.faulted c).rcnt = e.rcnt := rfl
@[simp] theorem Engine.faulted_rounds (e : Engine w) (c : BitVec 4) : (e.faulted c).rounds = e.rounds := rfl
@[simp] theorem Engine.faulted_busy (e : Engine w) (c : BitVec 4) : (e.faulted c).busy = e.busy := rfl
@[simp] theorem Engine.faulted_done (e : Engine w) (c : BitVec 4) : (e.faulted c).done = e.done := rfl
@[simp] theorem Engine.faulted_dir (e : Engine w) (c : BitVec 4) : (e.faulted c).dir = e.dir := rfl
@[simp] theorem Engine.faulted_err (e : Engine w) (c : BitVec 4) : (e.faulted c).err = true := rfl
@[simp] theorem Engine.faulted_ecode (e : Engine w) (c : BitVec 4) : (e.faulted c).ecode = if e.err = false then c else e.ecode := rfl

/-! `Engine.startFlags` -/

@[simp] theorem Engine.startFlags_v0 (e : Engine w) (p : Bool) : (e.startFlags p).v0 = e.v0 := rfl
@[simp] theorem Engine.startFlags_v1 (e : Engine w) (p : Bool) : (e.startFlags p).v1 = e.v1 := rfl
@[simp] theorem Engine.startFlags_k0 (e : Engine w) (p : Bool) : (e.startFlags p).k0 = e.k0 := rfl
@[simp] theorem Engine.startFlags_k1 (e : Engine w) (p : Bool) : (e.startFlags p).k1 = e.k1 := rfl
@[simp] theorem Engine.startFlags_k2 (e : Engine w) (p : Bool) : (e.startFlags p).k2 = e.k2 := rfl
@[simp] theorem Engine.startFlags_k3 (e : Engine w) (p : Bool) : (e.startFlags p).k3 = e.k3 := rfl
@[simp] theorem Engine.startFlags_sum (e : Engine w) (p : Bool) : (e.startFlags p).sum = e.sum := rfl
@[simp] theorem Engine.startFlags_rcnt (e : Engine w) (p : Bool) : (e.startFlags p).rcnt = e.rcnt := rfl
@[simp] theorem Engine.startFlags_rounds (e : Engine w) (p : Bool) : (e.startFlags p).rounds = e.rounds := rfl
@[simp] theorem Engine.startFlags_busy (e : Engine w) (p : Bool) : (e.startFlags p).busy = true := rfl
@[simp] theorem Engine.startFlags_done (e : Engine w) (p : Bool) : (e.startFlags p).done = false := rfl
@[simp] theorem Engine.startFlags_dir (e : Engine w) (p : Bool) : (e.startFlags p).dir = p := rfl
@[simp] theorem Engine.startFlags_err (e : Engine w) (p : Bool) : (e.startFlags p).err = e.err := rfl
@[simp] theorem Engine.startFlags_ecode (e : Engine w) (p : Bool) : (e.startFlags p).ecode = e.ecode := rfl

/-! `Engine.endFlags` -/

@[simp] theorem Engine.endFlags_v0 (e : Engine w) : e.endFlags.v0 = e.v0 := rfl
@[simp] theorem Engine.endFlags_v1 (e : Engine w) : e.endFlags.v1 = e.v1 := rfl
@[simp] theorem Engine.endFlags_k0 (e : Engine w) : e.endFlags.k0 = e.k0 := rfl
@[simp] theorem Engine.endFlags_k1 (e : Engine w) : e.endFlags.k1 = e.k1 := rfl
@[simp] theorem Engine.endFlags_k2 (e : Engine w) : e.endFlags.k2 = e.k2 := rfl
@[simp] theorem Engine.endFlags_k3 (e : Engine w) : e.endFlags.k3 = e.k3 := rfl
@[simp] theorem Engine.endFlags_sum (e : Engine w) : e.endFlags.sum = e.sum := rfl
@[simp] theorem Engine.endFlags_rcnt (e : Engine w) : e.endFlags.rcnt = e.rcnt := rfl
@[simp] theorem Engine.endFlags_rounds (e : Engine w) : e.endFlags.rounds = e.rounds := rfl
@[simp] theorem Engine.endFlags_busy (e : Engine w) : e.endFlags.busy = false := rfl
@[simp] theorem Engine.endFlags_done (e : Engine w) : e.endFlags.done = true := rfl
@[simp] theorem Engine.endFlags_dir (e : Engine w) : e.endFlags.dir = e.dir := rfl
@[simp] theorem Engine.endFlags_err (e : Engine w) : e.endFlags.err = e.err := rfl
@[simp] theorem Engine.endFlags_ecode (e : Engine w) : e.endFlags.ecode = e.ecode := rfl

/-! `Engine.acceptEncrypt` -/

@[simp] theorem Engine.acceptEncrypt_v0 (e : Engine w) : e.acceptEncrypt.v0 = e.v0 := rfl
@[simp] theorem Engine.acceptEncrypt_v1 (e : Engine w) : e.acceptEncrypt.v1 = e.v1 := rfl
@[simp] theorem Engine.acceptEncrypt_k0 (e : Engine w) : e.acceptEncrypt.k0 = e.k0 := rfl
@[simp] theorem Engine.acceptEncrypt_k1 (e : Engine w) : e.acceptEncrypt.k1 = e.k1 := rfl
@[simp] theorem Engine.acceptEncrypt_k2 (e : Engine w) : e.acceptEncrypt.k2 = e.k2 := rfl
@[simp] theorem Engine.acceptEncrypt_k3 (e : Engine w) : e.acceptEncrypt.k3 = e.k3 := rfl
@[simp] theorem Engine.acceptEncrypt_sum (e : Engine w) : e.acceptEncrypt.sum = 0#32 := rfl
@[simp] theorem Engine.acceptEncrypt_rcnt (e : Engine w) : e.acceptEncrypt.rcnt = e.rounds := rfl
@[simp] theorem Engine.acceptEncrypt_rounds (e : Engine w) : e.acceptEncrypt.rounds = e.rounds := rfl
@[simp] theorem Engine.acceptEncrypt_busy (e : Engine w) : e.acceptEncrypt.busy = true := rfl
@[simp] theorem Engine.acceptEncrypt_done (e : Engine w) : e.acceptEncrypt.done = false := rfl
@[simp] theorem Engine.acceptEncrypt_dir (e : Engine w) : e.acceptEncrypt.dir = false := rfl
@[simp] theorem Engine.acceptEncrypt_err (e : Engine w) : e.acceptEncrypt.err = e.err := rfl
@[simp] theorem Engine.acceptEncrypt_ecode (e : Engine w) : e.acceptEncrypt.ecode = e.ecode := rfl

/-! `Engine.acceptDecrypt` -/

@[simp] theorem Engine.acceptDecrypt_v0 (e : Engine w) : e.acceptDecrypt.v0 = e.v0 := rfl
@[simp] theorem Engine.acceptDecrypt_v1 (e : Engine w) : e.acceptDecrypt.v1 = e.v1 := rfl
@[simp] theorem Engine.acceptDecrypt_k0 (e : Engine w) : e.acceptDecrypt.k0 = e.k0 := rfl
@[simp] theorem Engine.acceptDecrypt_k1 (e : Engine w) : e.acceptDecrypt.k1 = e.k1 := rfl
@[simp] theorem Engine.acceptDecrypt_k2 (e : Engine w) : e.acceptDecrypt.k2 = e.k2 := rfl
@[simp] theorem Engine.acceptDecrypt_k3 (e : Engine w) : e.acceptDecrypt.k3 = e.k3 := rfl
@[simp] theorem Engine.acceptDecrypt_sum (e : Engine w) : e.acceptDecrypt.sum = Config.delta * e.rounds := rfl
@[simp] theorem Engine.acceptDecrypt_rcnt (e : Engine w) : e.acceptDecrypt.rcnt = e.rounds := rfl
@[simp] theorem Engine.acceptDecrypt_rounds (e : Engine w) : e.acceptDecrypt.rounds = e.rounds := rfl
@[simp] theorem Engine.acceptDecrypt_busy (e : Engine w) : e.acceptDecrypt.busy = true := rfl
@[simp] theorem Engine.acceptDecrypt_done (e : Engine w) : e.acceptDecrypt.done = false := rfl
@[simp] theorem Engine.acceptDecrypt_dir (e : Engine w) : e.acceptDecrypt.dir = true := rfl
@[simp] theorem Engine.acceptDecrypt_err (e : Engine w) : e.acceptDecrypt.err = e.err := rfl
@[simp] theorem Engine.acceptDecrypt_ecode (e : Engine w) : e.acceptDecrypt.ecode = e.ecode := rfl

/-! `Engine.finishRound` -/

@[simp] theorem Engine.finishRound_v0 (e : Engine w) (b : RoundState w) : (e.finishRound b).v0 = b.v0 := rfl
@[simp] theorem Engine.finishRound_v1 (e : Engine w) (b : RoundState w) : (e.finishRound b).v1 = b.v1 := rfl
@[simp] theorem Engine.finishRound_k0 (e : Engine w) (b : RoundState w) : (e.finishRound b).k0 = e.k0 := rfl
@[simp] theorem Engine.finishRound_k1 (e : Engine w) (b : RoundState w) : (e.finishRound b).k1 = e.k1 := rfl
@[simp] theorem Engine.finishRound_k2 (e : Engine w) (b : RoundState w) : (e.finishRound b).k2 = e.k2 := rfl
@[simp] theorem Engine.finishRound_k3 (e : Engine w) (b : RoundState w) : (e.finishRound b).k3 = e.k3 := rfl
@[simp] theorem Engine.finishRound_sum (e : Engine w) (b : RoundState w) : (e.finishRound b).sum = b.sum := rfl
@[simp] theorem Engine.finishRound_rcnt (e : Engine w) (b : RoundState w) : (e.finishRound b).rcnt = e.rcnt - 1#32 := rfl
@[simp] theorem Engine.finishRound_rounds (e : Engine w) (b : RoundState w) : (e.finishRound b).rounds = e.rounds := rfl
@[simp] theorem Engine.finishRound_busy (e : Engine w) (b : RoundState w) : (e.finishRound b).busy = e.busy := rfl
@[simp] theorem Engine.finishRound_done (e : Engine w) (b : RoundState w) : (e.finishRound b).done = e.done := rfl
@[simp] theorem Engine.finishRound_dir (e : Engine w) (b : RoundState w) : (e.finishRound b).dir = e.dir := rfl
@[simp] theorem Engine.finishRound_err (e : Engine w) (b : RoundState w) : (e.finishRound b).err = e.err := rfl
@[simp] theorem Engine.finishRound_ecode (e : Engine w) (b : RoundState w) : (e.finishRound b).ecode = e.ecode := rfl

/-! `Engine.setHalf` and `Engine.writeLane`: nothing but the operand store -/

@[simp] theorem Engine.setHalf_sum (e : Engine w) (h : HalfName) (H : HalfBlock w) : (e.setHalf h H).sum = e.sum := by
  cases h <;> rfl
@[simp] theorem Engine.setHalf_rcnt (e : Engine w) (h : HalfName) (H : HalfBlock w) : (e.setHalf h H).rcnt = e.rcnt := by
  cases h <;> rfl
@[simp] theorem Engine.setHalf_rounds (e : Engine w) (h : HalfName) (H : HalfBlock w) : (e.setHalf h H).rounds = e.rounds := by
  cases h <;> rfl
@[simp] theorem Engine.setHalf_busy (e : Engine w) (h : HalfName) (H : HalfBlock w) : (e.setHalf h H).busy = e.busy := by
  cases h <;> rfl
@[simp] theorem Engine.setHalf_done (e : Engine w) (h : HalfName) (H : HalfBlock w) : (e.setHalf h H).done = e.done := by
  cases h <;> rfl
@[simp] theorem Engine.setHalf_dir (e : Engine w) (h : HalfName) (H : HalfBlock w) : (e.setHalf h H).dir = e.dir := by
  cases h <;> rfl
@[simp] theorem Engine.setHalf_err (e : Engine w) (h : HalfName) (H : HalfBlock w) : (e.setHalf h H).err = e.err := by
  cases h <;> rfl
@[simp] theorem Engine.setHalf_ecode (e : Engine w) (h : HalfName) (H : HalfBlock w) : (e.setHalf h H).ecode = e.ecode := by
  cases h <;> rfl
@[simp] theorem Engine.writeLane_sum (e : Engine w) (h : HalfName) (i : Fin 32) (x : LaneWord w) : (e.writeLane h i x).sum = e.sum := by
  cases h <;> rfl
@[simp] theorem Engine.writeLane_rcnt (e : Engine w) (h : HalfName) (i : Fin 32) (x : LaneWord w) : (e.writeLane h i x).rcnt = e.rcnt := by
  cases h <;> rfl
@[simp] theorem Engine.writeLane_rounds (e : Engine w) (h : HalfName) (i : Fin 32) (x : LaneWord w) : (e.writeLane h i x).rounds = e.rounds := by
  cases h <;> rfl
@[simp] theorem Engine.writeLane_busy (e : Engine w) (h : HalfName) (i : Fin 32) (x : LaneWord w) : (e.writeLane h i x).busy = e.busy := by
  cases h <;> rfl
@[simp] theorem Engine.writeLane_done (e : Engine w) (h : HalfName) (i : Fin 32) (x : LaneWord w) : (e.writeLane h i x).done = e.done := by
  cases h <;> rfl
@[simp] theorem Engine.writeLane_dir (e : Engine w) (h : HalfName) (i : Fin 32) (x : LaneWord w) : (e.writeLane h i x).dir = e.dir := by
  cases h <;> rfl
@[simp] theorem Engine.writeLane_err (e : Engine w) (h : HalfName) (i : Fin 32) (x : LaneWord w) : (e.writeLane h i x).err = e.err := by
  cases h <;> rfl
@[simp] theorem Engine.writeLane_ecode (e : Engine w) (h : HalfName) (i : Fin 32) (x : LaneWord w) : (e.writeLane h i x).ecode = e.ecode := by
  cases h <;> rfl

@[simp] theorem Engine.half_setHalf_self (e : Engine w) (h : HalfName) (H : HalfBlock w) :
    (e.setHalf h H).half h = H := by
  cases h <;> rfl

theorem Engine.half_setHalf_of_ne (e : Engine w) {h h' : HalfName} (H : HalfBlock w) (hne : h' ≠ h) :
    (e.setHalf h H).half h' = e.half h' := by
  cases h <;> cases h' <;> first | rfl | exact absurd rfl hne

/-! The reset state -/

@[simp] theorem Engine.reset_v0 : (Engine.reset w).v0 = zeroHalf w := rfl
@[simp] theorem Engine.reset_v1 : (Engine.reset w).v1 = zeroHalf w := rfl
@[simp] theorem Engine.reset_k0 : (Engine.reset w).k0 = zeroHalf w := rfl
@[simp] theorem Engine.reset_k1 : (Engine.reset w).k1 = zeroHalf w := rfl
@[simp] theorem Engine.reset_k2 : (Engine.reset w).k2 = zeroHalf w := rfl
@[simp] theorem Engine.reset_k3 : (Engine.reset w).k3 = zeroHalf w := rfl
@[simp] theorem Engine.reset_sum : (Engine.reset w).sum = 0#32 := rfl
@[simp] theorem Engine.reset_rcnt : (Engine.reset w).rcnt = 0#32 := rfl
@[simp] theorem Engine.reset_rounds : (Engine.reset w).rounds = 32#32 := rfl
@[simp] theorem Engine.reset_busy : (Engine.reset w).busy = false := rfl
@[simp] theorem Engine.reset_done : (Engine.reset w).done = false := rfl
@[simp] theorem Engine.reset_dir : (Engine.reset w).dir = false := rfl
@[simp] theorem Engine.reset_err : (Engine.reset w).err = false := rfl
@[simp] theorem Engine.reset_ecode : (Engine.reset w).ecode = 0#4 := rfl

/-! `State.withEngine` -/

@[simp] theorem State.withEngine_width (s : State) (e : Engine s.width.bits) : (s.withEngine e).width = s.width := rfl
@[simp] theorem State.withEngine_engine (s : State) (e : Engine s.width.bits) : (s.withEngine e).engine = e := rfl
@[simp] theorem State.withEngine_script (s : State) (e : Engine s.width.bits) : (s.withEngine e).script = s.script := rfl
@[simp] theorem State.withEngine_sched (s : State) (e : Engine s.width.bits) : (s.withEngine e).sched = s.sched := rfl
@[simp] theorem State.withEngine_reads (s : State) (e : Engine s.width.bits) : (s.withEngine e).reads = s.reads := rfl

/-! `State.record` -/

@[simp] theorem State.record_width (s : State) (c : FaultCause) : (s.record c).width = s.width := rfl
@[simp] theorem State.record_engine (s : State) (c : FaultCause) : (s.record c).engine = s.engine.record c := rfl
@[simp] theorem State.record_script (s : State) (c : FaultCause) : (s.record c).script = s.script := rfl
@[simp] theorem State.record_sched (s : State) (c : FaultCause) : (s.record c).sched = s.sched := rfl
@[simp] theorem State.record_reads (s : State) (c : FaultCause) : (s.record c).reads = s.reads := rfl

/-! `State.resetEvent` -/

@[simp] theorem State.resetEvent_width (s : State) : s.resetEvent.width = s.width := rfl
@[simp] theorem State.resetEvent_engine (s : State) : s.resetEvent.engine = Engine.reset s.width.bits := rfl
@[simp] theorem State.resetEvent_script (s : State) : s.resetEvent.script = s.script := rfl
@[simp] theorem State.resetEvent_sched (s : State) : s.resetEvent.sched = s.sched := rfl
@[simp] theorem State.resetEvent_reads (s : State) : s.resetEvent.reads = s.reads := rfl

/-! `State.answer` -/

@[simp] theorem State.answer_width (s : State) (e : Engine s.width.bits) (v : HostData s.width.bits) :
    (s.answer e v).width = s.width := rfl
@[simp] theorem State.answer_engine (s : State) (e : Engine s.width.bits) (v : HostData s.width.bits) :
    (s.answer e v).engine = e := rfl
@[simp] theorem State.answer_script (s : State) (e : Engine s.width.bits) (v : HostData s.width.bits) :
    (s.answer e v).script = s.script := rfl
@[simp] theorem State.answer_sched (s : State) (e : Engine s.width.bits) (v : HostData s.width.bits) :
    (s.answer e v).sched = s.sched := rfl
@[simp] theorem State.answer_reads (s : State) (e : Engine s.width.bits) (v : HostData s.width.bits) :
    (s.answer e v).reads = v :: s.reads := rfl

/-! `State.withScript` -/

@[simp] theorem State.withScript_width (s : State) (l : List (HostEvent s.width.bits)) : (s.withScript l).width = s.width := rfl
@[simp] theorem State.withScript_engine (s : State) (l : List (HostEvent s.width.bits)) : (s.withScript l).engine = s.engine := rfl
@[simp] theorem State.withScript_script (s : State) (l : List (HostEvent s.width.bits)) : (s.withScript l).script = l := rfl
@[simp] theorem State.withScript_sched (s : State) (l : List (HostEvent s.width.bits)) : (s.withScript l).sched = s.sched := rfl
@[simp] theorem State.withScript_reads (s : State) (l : List (HostEvent s.width.bits)) : (s.withScript l).reads = s.reads := rfl

/-! `State.dropTurn` -/

@[simp] theorem State.dropTurn_width (s : State) : s.dropTurn.width = s.width := rfl
@[simp] theorem State.dropTurn_engine (s : State) : s.dropTurn.engine = s.engine := rfl
@[simp] theorem State.dropTurn_script (s : State) : s.dropTurn.script = s.script := rfl
@[simp] theorem State.dropTurn_sched (s : State) : s.dropTurn.sched = s.sched.tail := rfl
@[simp] theorem State.dropTurn_reads (s : State) : s.dropTurn.reads = s.reads := rfl

/-! `State.pollOnce` -/

@[simp] theorem State.pollOnce_width (s : State) : s.pollOnce.width = s.width := rfl
@[simp] theorem State.pollOnce_engine (s : State) : s.pollOnce.engine = s.engine := rfl
@[simp] theorem State.pollOnce_script (s : State) : s.pollOnce.script = if s.engine.busy then .poll :: s.script else s.script := rfl
@[simp] theorem State.pollOnce_sched (s : State) : s.pollOnce.sched = s.sched := rfl
@[simp] theorem State.pollOnce_reads (s : State) : s.pollOnce.reads = zextScalar s.engine.status :: s.reads := rfl

/-! `State.hostNext` -/

@[simp] theorem State.hostNext_width (s : State) (ev : HostEvent s.width.bits) : (s.hostNext ev).width = s.width := rfl
@[simp] theorem State.hostNext_engine (s : State) (ev : HostEvent s.width.bits) : (s.hostNext ev).engine = s.engine := rfl
@[simp] theorem State.hostNext_script (s : State) (ev : HostEvent s.width.bits) : (s.hostNext ev).script = ev :: s.script := rfl
@[simp] theorem State.hostNext_sched (s : State) (ev : HostEvent s.width.bits) : (s.hostNext ev).sched = .host :: s.sched := rfl
@[simp] theorem State.hostNext_reads (s : State) (ev : HostEvent s.width.bits) : (s.hostNext ev).reads = s.reads := rfl

/-! `State.afterEvent` -/

@[simp] theorem State.afterEvent_width (s : State) : s.afterEvent.width = s.width := rfl
@[simp] theorem State.afterEvent_engine (s : State) : s.afterEvent.engine = s.engine := rfl
@[simp] theorem State.afterEvent_script (s : State) : s.afterEvent.script = s.script.tail := rfl
@[simp] theorem State.afterEvent_sched (s : State) : s.afterEvent.sched = s.sched.tail := rfl
@[simp] theorem State.afterEvent_reads (s : State) : s.afterEvent.reads = s.reads := rfl

end Sys2Proof.Machine
end

