-- ==== Sys2Proof/Laws/Ops.lean ====
section
/-! SUPPORT. What the shared operations over the state can do: recording a fault, the operand store, the address map, the widths. -/

namespace Sys2Proof.Machine

variable {w : Nat}

/-! ### Recording a fault -/

/-- Recording a fault is R170 with the cause's code. -/
theorem Engine.record_eq_faulted (e : Engine w) (c : FaultCause) : e.record c = e.faulted c.code := by
  cases h : e.err <;> simp [Engine.record, Engine.faulted, h]

theorem State.record_eq (s : State) (c : FaultCause) : s.record c = s.withEngine (s.engine.faulted c.code) := by
  rw [State.record, Engine.record_eq_faulted]

/-! ### The operand store -/

/-- Read after write, for every pair of lane words. -/
theorem readLane_writeLane (e : Engine w) (h h' : HalfName) (i i' : Fin 32) (x : LaneWord w) :
    (e.writeLane h i x).readLane h' i' = if h' = h ∧ i' = i then x else e.readLane h' i' := by
  by_cases hh : h' = h
  · subst hh
    simp only [Engine.readLane, Engine.writeLane, Engine.half_setHalf_self, true_and]
    by_cases hi : i' = i
    · subst hi; simp
    · rw [if_neg hi]
      exact Vector.getElem_set_ne _ _ fun h => hi (Fin.ext h.symm)
  · simp [Engine.readLane, Engine.writeLane, Engine.half_setHalf_of_ne _ _ hh, hh]

/-- A write of a lane word touches the operand store only. -/
theorem writeLane_eqButStore (e : Engine w) (h : HalfName) (i : Fin 32) (x : LaneWord w) :
    e.EqButStore (e.writeLane h i x) := by
  cases h <;> rfl

/-- Two engines that agree outside the operand store and in every lane word are equal. -/
theorem Engine.ext_store {e e' : Engine w} (h : e.EqButStore e') (hl : ∀ h i, e.readLane h i = e'.readLane h i) :
    e = e' := by
  have key : ∀ n, e.half n = e'.half n := fun n => Vector.ext fun i hi => hl n ⟨i, hi⟩
  have h0 := key .v0
  have h1 := key .v1
  have h2 := key .k0
  have h3 := key .k1
  have h4 := key .k2
  have h5 := key .k3
  simp only [Engine.half] at h0 h1 h2 h3 h4 h5
  rw [h, ← h0, ← h1, ← h2, ← h3, ← h4, ← h5]

theorem readLane_reset (h : HalfName) (i : Fin 32) : (Engine.reset w).readLane h i = 0#w := by
  cases h <;> exact Vector.getElem_replicate _

/-! ### The address map -/

theorem ofAddress_laneAddress (h : HalfName) (i : Fin 32) : Target.ofAddress (laneAddress h i) = .lane h i := by
  have key : ∀ j : Fin 32, ∀ n ∈ [HalfName.v0, .v1, .k0, .k1, .k2, .k3],
      Target.ofAddress (laneAddress n j) = .lane n j := by decide
  exact key i h (by cases h <;> simp)

theorem laneAddress_le (h : HalfName) (i : Fin 32) : (laneAddress h i).toNat ≤ 0xBF := by
  have := i.isLt
  cases h <;> simp [laneAddress, HalfName.number] <;> omega

theorem laneAddress_inj {h h' : HalfName} {i i' : Fin 32} (e : laneAddress h i = laneAddress h' i') :
    h = h' ∧ i = i' := by
  simpa [ofAddress_laneAddress] using congrArg Target.ofAddress e

/-- Every address up to `0xBF` names a lane word. -/
theorem exists_laneAddress (a : Address) (ha : a.toNat ≤ 0xBF) : ∃ h i, a = laneAddress h i := by
  obtain ⟨h, hn⟩ : ∃ h : HalfName, h.number = a.toNat / 32 := by
    have hq : a.toNat / 32 < 6 := by omega
    match a.toNat / 32, hq with
    | 0, _ => exact ⟨.v0, rfl⟩
    | 1, _ => exact ⟨.v1, rfl⟩
    | 2, _ => exact ⟨.k0, rfl⟩
    | 3, _ => exact ⟨.k1, rfl⟩
    | 4, _ => exact ⟨.k2, rfl⟩
    | 5, _ => exact ⟨.k3, rfl⟩
  refine ⟨h, ⟨a.toNat % 32, Nat.mod_lt _ (by decide)⟩, ?_⟩
  rw [laneAddress, hn, Nat.div_add_mod]
  simp

theorem ofAddress_rounds : Target.ofAddress 0xC0#8 = .rounds := by decide

theorem ofAddress_cmd : Target.ofAddress 0xC1#8 = .cmd := by decide

theorem ofAddress_status : Target.ofAddress 0xC2#8 = .status := by decide

theorem ofAddress_sum : Target.ofAddress 0xC3#8 = .sum := by decide

theorem ofAddress_rcnt : Target.ofAddress 0xC4#8 = .rcnt := by decide

theorem ofAddress_unmapped (a : Address) (ha : 0xC5 ≤ a.toNat) : Target.ofAddress a = .unmapped := by
  have key : ∀ n : Fin 59, Target.ofAddress (BitVec.ofNat 8 (0xC5 + n.val)) = .unmapped := by decide
  have h := key ⟨a.toNat - 0xC5, by have := a.isLt; omega⟩
  simpa [show 197 + (a.toNat - 197) = a.toNat by omega] using h

/-- The seven kinds of address (R51). -/
theorem address_cases (a : Address) :
    (∃ h i, a = laneAddress h i) ∨ a = 0xC0#8 ∨ a = 0xC1#8 ∨ a = 0xC2#8 ∨ a = 0xC3#8 ∨ a = 0xC4#8 ∨
      0xC5 ≤ a.toNat := by
  by_cases h : a.toNat ≤ 0xBF
  · exact .inl (exists_laneAddress a h)
  · right
    have e : a = BitVec.ofNat 8 a.toNat := by simp
    by_cases h5 : 0xC5 ≤ a.toNat
    · simp [h5]
    · have : a.toNat = 0xC0 ∨ a.toNat = 0xC1 ∨ a.toNat = 0xC2 ∨ a.toNat = 0xC3 ∨ a.toNat = 0xC4 := by omega
      rcases this with h | h | h | h | h <;> rw [h] at e <;> simp [e]

/-- Only `0xC2` names `STATUS`. -/
theorem ofAddress_ne_status {a : Address} (ha : a ≠ 0xC2#8) : Target.ofAddress a ≠ .status := by
  rcases address_cases a with ⟨h, i, rfl⟩ | rfl | rfl | rfl | rfl | rfl | h5
  · simp [ofAddress_laneAddress]
  · decide
  · decide
  · exact absurd rfl ha
  · decide
  · decide
  · simp [ofAddress_unmapped _ h5]

/-! ### Widths -/

/-- A 32-bit word survives the port whatever the lane width. -/
theorem truncScalar_zextScalar (c : Scalar) : truncScalar (zextScalar c : HostData w) = c := by
  simp only [truncScalar, zextScalar]
  rw [BitVec.setWidth_setWidth_of_le] <;> simp [dataBits]

end Sys2Proof.Machine
end

