-- ==== Sys2Proof/Laws/Driver.lean ====
section
/-! SUPPORT. What the meanings of the commands and the engine's steps can do. -/

namespace Sys2Proof.Machine

variable {w : Nat}

/-- The acceptance of a command, by its name. -/
def Engine.accept (e : Engine w) : Instr → Engine w
  | .encrypt => e.acceptEncrypt
  | .decrypt => e.acceptDecrypt

theorem exec_idle (i : Instr) (s : State) (h : s.engine.busy = false) :
    exec i s = .next (s.withEngine (s.engine.accept i)) := by
  cases i <;> simp [exec, execEncrypt, execDecrypt, Engine.accept, h]

theorem exec_busy (i : Instr) (s : State) (h : s.engine.busy = true) : exec i s = .next (s.record .busyAccess) := by
  cases i <;> simp [exec, execEncrypt, execDecrypt, h]

@[simp] theorem Engine.accept_busy (e : Engine w) (i : Instr) : (e.accept i).busy = true := by cases i <;> rfl

@[simp] theorem Engine.accept_done (e : Engine w) (i : Instr) : (e.accept i).done = false := by cases i <;> rfl

@[simp] theorem Engine.accept_rcnt (e : Engine w) (i : Instr) : (e.accept i).rcnt = e.rounds := by cases i <;> rfl

@[simp] theorem Engine.accept_rounds (e : Engine w) (i : Instr) : (e.accept i).rounds = e.rounds := by cases i <;> rfl

@[simp] theorem Engine.accept_err (e : Engine w) (i : Instr) : (e.accept i).err = e.err := by cases i <;> rfl

@[simp] theorem Engine.accept_ecode (e : Engine w) (i : Instr) : (e.accept i).ecode = e.ecode := by cases i <;> rfl

@[simp] theorem Engine.accept_readLane (e : Engine w) (i : Instr) (h : HalfName) (k : Fin 32) :
    (e.accept i).readLane h k = e.readLane h k := by
  cases i <;> cases h <;> rfl

/-- What one step of the engine can be (R153, R154, R155). -/
inductive EngineStepIs (e : Engine w) : Engine w → Prop where
  | idle (hb : e.busy = false) : EngineStepIs e e
  | completion (hb : e.busy = true) (hr : e.rcnt = 0#32) : EngineStepIs e e.endFlags
  | forward (hb : e.busy = true) (hr : e.rcnt ≠ 0#32) (hd : e.dir = false) : EngineStepIs e e.forwardStep
  | inverse (hb : e.busy = true) (hr : e.rcnt ≠ 0#32) (hd : e.dir = true) : EngineStepIs e e.inverseStep

theorem engineStep_is (e : Engine w) : EngineStepIs e e.engineStep := by
  unfold Engine.engineStep
  split
  · rename_i hb
    split
    · exact .completion hb ‹_›
    · split
      · exact .inverse hb ‹_› ‹_›
      · exact .forward hb ‹_› (by simpa using ‹¬ e.dir = true›)
  · exact .idle (by simpa using ‹¬ e.busy = true›)

/-- The engine's own steps leave the subkeys, `ROUNDS`, `DIR` and the fault fields alone (R22, R171). -/
theorem engineStep_frame (e : Engine w) :
    e.engineStep.k0 = e.k0 ∧ e.engineStep.k1 = e.k1 ∧ e.engineStep.k2 = e.k2 ∧ e.engineStep.k3 = e.k3 ∧
    e.engineStep.rounds = e.rounds ∧ e.engineStep.dir = e.dir ∧ e.engineStep.err = e.err ∧
    e.engineStep.ecode = e.ecode := by
  have h := engineStep_is e
  generalize e.engineStep = e' at h ⊢
  cases h <;> simp [Engine.forwardStep, Engine.inverseStep]

end Sys2Proof.Machine
end

