-- ==== Sys2Proof/Laws/Step.lean ====
section
/-! SUPPORT. What a host transaction, a host event and a step can do, said once each. -/

namespace Sys2Proof.Machine

variable {w : Nat}

/-! ### Host transactions -/

theorem hostWrite_busy (s : State) (a : Address) (d : HostData s.width.bits) (hb : s.engine.busy = true) :
    hostWrite s a d = .next (s.withEngine (s.engine.faulted 2#4)) := by
  simp [hostWrite, hb, State.record_eq, FaultCause.code]

theorem hostWrite_lane (s : State) (h : HalfName) (i : Fin 32) (d : HostData s.width.bits)
    (hb : s.engine.busy = false) :
    hostWrite s (laneAddress h i) d = .next (s.withEngine (s.engine.writeLane h i (truncLane d))) := by
  simp [hostWrite, hb, ofAddress_laneAddress]

theorem hostWrite_rounds (s : State) (d : HostData s.width.bits) (hb : s.engine.busy = false) :
    hostWrite s 0xC0#8 d = .next (s.withEngine (s.engine.writeRounds (truncScalar d))) := by
  simp [hostWrite, hb, ofAddress_rounds]

theorem hostWrite_cmd (s : State) (d : HostData s.width.bits) (hb : s.engine.busy = false) :
    hostWrite s 0xC1#8 d = command s (truncScalar d) := by
  simp [hostWrite, hb, ofAddress_cmd]

theorem hostWrite_bad (s : State) (a : Address) (d : HostData s.width.bits) (hb : s.engine.busy = false)
    (ha : 0xC2 ≤ a.toNat) : hostWrite s a d = .next (s.withEngine (s.engine.faulted 3#4)) := by
  rcases address_cases a with ⟨h, i, rfl⟩ | rfl | rfl | rfl | rfl | rfl | h5
  · have := laneAddress_le h i; omega
  · simp at ha
  · simp at ha
  · simp [hostWrite, hb, ofAddress_status, State.record_eq, FaultCause.code]
  · simp [hostWrite, hb, ofAddress_sum, State.record_eq, FaultCause.code]
  · simp [hostWrite, hb, ofAddress_rcnt, State.record_eq, FaultCause.code]
  · simp [hostWrite, hb, ofAddress_unmapped _ h5, State.record_eq, FaultCause.code]

theorem command_legal (s : State) (c : Scalar) (i : Instr) (h : decode c = .ok i) : command s c = exec i s := by
  simp [command, h]

theorem command_illegal (s : State) (c : Scalar) (h1 : c ≠ 1#32) (h2 : c ≠ 2#32) :
    command s c = .next (s.withEngine (s.engine.faulted 1#4)) := by
  simp [command, decode_eq, h1, h2, State.record_eq, FaultCause.code]

theorem readPort_status (e : Engine w) : e.readPort 0xC2#8 = .ok (zextScalar e.status) := by
  simp [Engine.readPort, ofAddress_status]

theorem readPort_busy (e : Engine w) {a : Address} (hb : e.busy = true) (ha : a ≠ 0xC2#8) :
    e.readPort a = .error .busyAccess := by
  have := ofAddress_ne_status ha
  unfold Engine.readPort
  split <;> simp_all [Engine.whenIdle]

theorem readPort_lane (e : Engine w) (h : HalfName) (i : Fin 32) (hb : e.busy = false) :
    e.readPort (laneAddress h i) = .ok (zextLane (e.readLane h i)) := by
  simp [Engine.readPort, ofAddress_laneAddress, Engine.whenIdle, hb]

theorem readPort_rounds (e : Engine w) (hb : e.busy = false) : e.readPort 0xC0#8 = .ok (zextScalar e.rounds) := by
  simp [Engine.readPort, ofAddress_rounds, Engine.whenIdle, hb]

theorem readPort_sum (e : Engine w) (hb : e.busy = false) : e.readPort 0xC3#8 = .ok (zextScalar e.sum) := by
  simp [Engine.readPort, ofAddress_sum, Engine.whenIdle, hb]

theorem readPort_rcnt (e : Engine w) (hb : e.busy = false) : e.readPort 0xC4#8 = .ok (zextScalar e.rcnt) := by
  simp [Engine.readPort, ofAddress_rcnt, Engine.whenIdle, hb]

theorem readPort_bad (e : Engine w) (a : Address) (hb : e.busy = false) (ha : a = 0xC1#8 ∨ 0xC5 ≤ a.toNat) :
    e.readPort a = .error .badAccess := by
  rcases ha with rfl | ha
  · simp [Engine.readPort, ofAddress_cmd, Engine.whenIdle, hb]
  · simp [Engine.readPort, ofAddress_unmapped a ha, Engine.whenIdle, hb]

/-- What a read can yield: a value, or the one fault its address and the engine call for. -/
theorem readPort_cases (e : Engine w) (a : Address) :
    (∃ v, e.readPort a = .ok v) ∨
    (e.readPort a = .error .busyAccess ∧ e.busy = true ∧ a ≠ 0xC2#8) ∨
    (e.readPort a = .error .badAccess ∧ e.busy = false ∧ (a = 0xC1#8 ∨ 0xC5 ≤ a.toNat)) := by
  by_cases h2 : a = 0xC2#8
  · subst h2; exact .inl ⟨_, readPort_status e⟩
  cases hb : e.busy with
  | true => exact .inr (.inl ⟨readPort_busy e hb h2, rfl, h2⟩)
  | false =>
    rcases address_cases a with ⟨h, i, rfl⟩ | rfl | h1 | rfl | rfl | rfl | h5
    · exact .inl ⟨_, readPort_lane e h i hb⟩
    · exact .inl ⟨_, readPort_rounds e hb⟩
    · exact .inr (.inr ⟨readPort_bad e a hb (.inl h1), rfl, .inl h1⟩)
    · exact absurd rfl h2
    · exact .inl ⟨_, readPort_sum e hb⟩
    · exact .inl ⟨_, readPort_rcnt e hb⟩
    · exact .inr (.inr ⟨readPort_bad e a hb (.inr h5), rfl, .inr h5⟩)

/-- The `STATUS` word is public (R108). -/
theorem status_of_publicEq {e e' : Engine w} (h : e.PublicEq e') : e.status = e'.status := by
  obtain ⟨-, -, -, hb, hd, hdir, he, hc⟩ := h
  simp [Engine.status, hb, hd, hdir, he, hc]

/-- What a read yields is public, but for the lane words while idle (R108, R57). -/
theorem readPort_of_publicEq {e e' : Engine w} (h : e.PublicEq e') (a : Address)
    (ha : e.busy = true ∨ ∀ n i, a ≠ laneAddress n i) : e.readPort a = e'.readPort a := by
  obtain ⟨hs, hr, hro, hb, -⟩ := id h
  by_cases h2 : a = 0xC2#8
  · rw [h2, readPort_status, readPort_status, status_of_publicEq h]
  cases hbe : e.busy with
  | true => rw [readPort_busy e hbe h2, readPort_busy e' (hb.symm.trans hbe) h2]
  | false =>
    have hbe' := hb.symm.trans hbe
    have hn : ∀ n i, a ≠ laneAddress n i := ha.resolve_left (by simp [hbe])
    rcases address_cases a with ⟨n, i, h⟩ | rfl | h1 | h | rfl | rfl | h5
    · exact absurd h (hn n i)
    · rw [readPort_rounds e hbe, readPort_rounds e' hbe', hro]
    · rw [readPort_bad e a hbe (.inl h1), readPort_bad e' a hbe' (.inl h1)]
    · exact absurd h h2
    · rw [readPort_sum e hbe, readPort_sum e' hbe', hs]
    · rw [readPort_rcnt e hbe, readPort_rcnt e' hbe', hr]
    · rw [readPort_bad e a hbe (.inr h5), readPort_bad e' a hbe' (.inr h5)]

/-- What a read of anything but `STATUS` yields does not depend on the fault fields (R173). -/
theorem readPort_of_eqButFaults {e e' : Engine w} (h : e.EqButFaults e') {a : Address} (ha : a ≠ 0xC2#8) :
    e.readPort a = e'.readPort a := by
  have hs := ofAddress_ne_status ha
  rw [h]
  unfold Engine.readPort
  split
  · exact absurd ‹_› hs
  · rename_i n _ _; cases n <;> rfl
  all_goals rfl

/-! ### Host events -/

theorem hostEvent_write (s : State) (a : Address) (d : HostData s.width.bits) :
    hostEvent s (.write a d) = hostWrite s a d := rfl

theorem hostEvent_read (s : State) (a : Address) : hostEvent s (.read a) = .next (hostRead s a) := rfl

theorem hostEvent_poll (s : State) : hostEvent s .poll = .next s.pollOnce := rfl

theorem hostEvent_reset (s : State) : hostEvent s .reset = .next s.resetEvent := rfl

/-- Everything a host event can do to the engine. -/
inductive EventEffect (e : Engine w) (ev : HostEvent w) : Engine w → Prop where
  | nothing : EventEffect e ev e
  | reset (h : ev = .reset) : EventEffect e ev (Engine.reset w)
  | busyWrite (hb : e.busy = true) (a : Address) (d : HostData w) (h : ev = .write a d) :
      EventEffect e ev (e.faulted 2#4)
  | busyRead (hb : e.busy = true) (a : Address) (ha : a ≠ 0xC2#8) (h : ev = .read a) :
      EventEffect e ev (e.faulted 2#4)
  | illegal (hb : e.busy = false) (d : HostData w) (h1 : d.setWidth 32 ≠ 0x00000001#32)
      (h2 : d.setWidth 32 ≠ 0x00000002#32) (h : ev = .write 0xC1#8 d) : EventEffect e ev (e.faulted 1#4)
  | badWrite (hb : e.busy = false) (a : Address) (d : HostData w) (ha : 0xC2 ≤ a.toNat) (h : ev = .write a d) :
      EventEffect e ev (e.faulted 3#4)
  | badRead (hb : e.busy = false) (a : Address) (ha : a = 0xC1#8 ∨ 0xC5 ≤ a.toNat) (h : ev = .read a) :
      EventEffect e ev (e.faulted 3#4)
  | lane (hb : e.busy = false) (n : HalfName) (i : Fin 32) (d : HostData w) (h : ev = .write (laneAddress n i) d) :
      EventEffect e ev (e.writeLane n i (truncLane d))
  | rounds (hb : e.busy = false) (d : HostData w) (h : ev = .write 0xC0#8 d) :
      EventEffect e ev (e.writeRounds (truncScalar d))
  | accepted (hb : e.busy = false) (d : HostData w) (i : Instr) (h : ev = .write 0xC1#8 d)
      (hd : decode (d.setWidth 32) = .ok i) : EventEffect e ev (e.accept i)

/-- A host write answers a next state that differs in the engine only, by one of the effects. -/
theorem hostWrite_effect (s : State) (a : Address) (d : HostData s.width.bits) :
    ∃ e, hostWrite s a d = .next (s.withEngine e) ∧ EventEffect s.engine (.write a d) e := by
  cases hb : s.engine.busy with
  | true => exact ⟨_, hostWrite_busy s a d hb, .busyWrite hb a d rfl⟩
  | false =>
    by_cases hhigh : 0xC2 ≤ a.toNat
    · exact ⟨_, hostWrite_bad s a d hb hhigh, .badWrite hb a d hhigh rfl⟩
    rcases address_cases a with ⟨h, i, rfl⟩ | rfl | rfl | hc
    · exact ⟨_, hostWrite_lane s h i d hb, .lane hb h i d rfl⟩
    · exact ⟨_, hostWrite_rounds s d hb, .rounds hb d rfl⟩
    · rw [hostWrite_cmd s d hb]
      by_cases h1 : d.setWidth 32 = 1#32
      · have hd : decode (d.setWidth 32) = .ok .encrypt := by rw [h1]; rfl
        exact ⟨_, (command_legal s _ _ hd).trans (exec_idle _ s hb), .accepted hb d _ rfl hd⟩
      by_cases h2 : d.setWidth 32 = 2#32
      · have hd : decode (d.setWidth 32) = .ok .decrypt := by rw [h2]; rfl
        exact ⟨_, (command_legal s _ _ hd).trans (exec_idle _ s hb), .accepted hb d _ rfl hd⟩
      · exact ⟨_, command_illegal s _ h1 h2, .illegal hb d h1 h2 rfl⟩
    · rcases hc with rfl | rfl | rfl | h5
      · simp at hhigh
      · simp at hhigh
      · simp at hhigh
      · omega

/-- A host read answers the host and leaves an engine by one of the effects. -/
theorem hostRead_effect (s : State) (a : Address) :
    ∃ e v, hostRead s a = s.answer e v ∧ EventEffect s.engine (.read a) e := by
  rcases readPort_cases s.engine a with ⟨v, h⟩ | ⟨h, hb, ha⟩ | ⟨h, hb, ha⟩
  · exact ⟨s.engine, v, by simp [hostRead, h], .nothing⟩
  · exact ⟨s.engine.faulted 2#4, 0, by simp [hostRead, h, Engine.record_eq_faulted, FaultCause.code],
      .busyRead hb a ha rfl⟩
  · exact ⟨s.engine.faulted 3#4, 0, by simp [hostRead, h, Engine.record_eq_faulted, FaultCause.code],
      .badRead hb a ha rfl⟩

/-- A host event answers a next state of the same width, by one of the effects; it uses up no turn. -/
theorem hostEvent_effect (s : State) (ev : HostEvent s.width.bits) :
    ∃ e sc rd, hostEvent s ev = .next ⟨s.width, e, sc, s.sched, rd⟩ ∧ EventEffect s.engine ev e := by
  cases ev with
  | write a d =>
    obtain ⟨e, h, he⟩ := hostWrite_effect s a d
    exact ⟨e, s.script, s.reads, h, he⟩
  | read a =>
    obtain ⟨e, v, h, he⟩ := hostRead_effect s a
    exact ⟨e, s.script, v :: s.reads, congrArg Host.Outcome.next h, he⟩
  | poll => exact ⟨s.engine, _, _, rfl, .nothing⟩
  | reset => exact ⟨_, s.script, s.reads, rfl, .reset rfl⟩

/-! ### Turns and steps -/

theorem takeTurn_engine (s : State) (h : s.nextAgent = .engine) :
    takeTurn s = .next ⟨s.width, s.engine.engineStep, s.script, s.sched.tail, s.reads⟩ := by
  simp only [takeTurn, h]
  rfl

theorem takeTurn_host_idle (s : State) (h : s.nextAgent = .host) (hs : s.script = []) :
    takeTurn s = .next s.dropTurn := by
  simp only [takeTurn, h, hostTurn, State.dropTurn, hs]

theorem takeTurn_host (s : State) (ev : HostEvent s.width.bits) (h : s.HostDoes ev) :
    takeTurn s = hostEvent s.afterEvent ev := by
  obtain ⟨width, e, sc, sd, rd⟩ := s
  obtain ⟨h1, h2⟩ := h
  cases sc with
  | nil => simp at h2
  | cons x rest =>
    obtain rfl : x = ev := by simpa using h2
    simp only [takeTurn, h1]
    rfl

/-- Everything a step can do to the engine. -/
inductive StepEffect (s : State) : Engine s.width.bits → Prop where
  | engine (h : s.nextAgent = .engine) : StepEffect s s.engine.engineStep
  | hostIdle (h : s.nextAgent = .host) (hs : s.script = []) : StepEffect s s.engine
  | host (ev : HostEvent s.width.bits) (h : s.HostDoes ev) (e : Engine s.width.bits)
      (he : EventEffect s.engine ev e) : StepEffect s e

/-- Every step answers a next state of the same width, by one of the effects. -/
theorem step_effect (s : State) : ∃ e, s.Goes e ∧ StepEffect s e := by
  cases ha : s.nextAgent with
  | engine => exact ⟨_, ⟨_, _, _, takeTurn_engine s ha⟩, .engine ha⟩
  | host =>
    cases hs : s.script with
    | nil => exact ⟨s.engine, ⟨s.script, _, _, takeTurn_host_idle s ha hs⟩, .hostIdle ha hs⟩
    | cons ev rest =>
      have hd : s.HostDoes ev := ⟨ha, by simp [hs]⟩
      obtain ⟨e, sc, rd, h, he⟩ := hostEvent_effect s.afterEvent ev
      exact ⟨e, ⟨sc, _, rd, (takeTurn_host s ev hd).trans h⟩, .host ev hd e he⟩

/-- A step has one outcome. -/
theorem Goes_unique {s : State} {e e' : Engine s.width.bits} (h : s.Goes e) (h' : s.Goes e') : e = e' := by
  obtain ⟨sc, sd, rd, h⟩ := h
  obtain ⟨sc', sd', rd', h'⟩ := h'
  rw [h] at h'
  have := Host.Outcome.next.inj h'
  simp only [State.mk.injEq, heq_eq_eq, true_and] at this
  exact this.1

/-- The inversion lemma of `step`: where it goes, it goes by one of the effects. -/
theorem Goes_effect {s : State} {e : Engine s.width.bits} (h : s.Goes e) : StepEffect s e := by
  obtain ⟨e', h', he⟩ := step_effect s
  rwa [Goes_unique h h']

/-- One step of a run of the machine. -/
theorem core_run_succ (n : Nat) (s t : State) (h : step s = .next t) : core.run (n + 1) s = core.run n t := by
  have h' : core.step s = .next t := h
  simp only [Host.Core.run, h']

end Sys2Proof.Machine
end

