-- ==== Sys2Proof/Tests/Slice0.lean ====
section
/-! SUPPORT. Tests with results taken from spec/95_test_vectors.md and the worked values of the rules, and for every obligation
with hypotheses a witness that meets them all. -/

namespace Sys2Proof.Tests

open Sys2Proof Sys2Proof.Machine

/-! ### Command words and well-formedness -/

/-- R81, R83: `RSV = 0` in bits 31:8 and `OP = 0000 0001` in bits 7:0, written out bit by bit. -/
theorem test_encrypt_word :
    decode (0b000000000000000000000000#24 ++ 0b00000001#8) = .ok .encrypt ∧ decodeTableWord 32 0x00000001 = some .encrypt := by
  decide

/-- R81, R83: `RSV = 0` in bits 31:8 and `OP = 0000 0010` in bits 7:0, written out bit by bit. -/
theorem test_decrypt_word :
    decode (0b000000000000000000000000#24 ++ 0b00000010#8) = .ok .decrypt ∧ decodeTableWord 32 0x00000002 = some .decrypt := by
  decide

/-- The check of `RSV` refuses an ill-formed word: T8.8, and the highest reserved bit. -/
theorem test_reserved_field_refused :
    legalWord 0x00000101#32 = false ∧ decode 0x00000101#32 = .error .reservedBitsSet ∧
    legalWord 0x80000001#32 = false ∧ decode 0x80000001#32 = .error .reservedBitsSet := by decide

/-- The check of `OP` refuses an ill-formed word: T8.6, T8.7. -/
theorem test_operation_code_refused :
    legalWord 0x00000000#32 = false ∧ decode 0x00000000#32 = .error .unknownOperation ∧
    legalWord 0x00000003#32 = false ∧ decode 0x00000003#32 = .error .unknownOperation := by decide

theorem test_commands_are_well_formed : Instr.wf .encrypt = true ∧ Instr.wf .decrypt = true := by decide

/-! ### Datapath vectors -/

/-- A half-block of width 8 written as the vectors print it. -/
def block8 (l : List (BitVec 8)) : HalfBlock 8 := HalfBlock.tabulate fun i => l.getD i 0#8

/-- T3.1, `A`. -/
def vectorA : HalfBlock 8 :=
  pack [0x00000000#32, 0xFFFFFFFF#32, 0x7FFFFFFF#32, 0x80000000#32, 0x12345678#32, 0xFFFFFFFF#32, 0x00000001#32, 0xDEADBEEF#32]

/-- T3.1, `B`. -/
def vectorB : HalfBlock 8 :=
  pack [0x00000000#32, 0x00000001#32, 0x00000001#32, 0x80000000#32, 0x9ABCDEF0#32, 0xFFFFFFFF#32, 0x00000001#32, 0x01234567#32]

/-- T4.1, `H`. -/
def vectorH : HalfBlock 8 :=
  pack [0xFFFFFFFF#32, 0x12345678#32, 0x80000001#32, 0x00000000#32, 0x0000001F#32, 0xF8000000#32, 0x0FFFFFFF#32, 0xDEADBEEF#32]

/-- 95 section 2, the first row and the `NOT` of `0xCA` at 16 bits. -/
theorem test_lane_primitives :
    (0xCA#8 &&& 0xA6#8) = 0x82#8 ∧ (0xCA#8 ||| 0xA6#8) = 0xEE#8 ∧ (0xCA#8 ^^^ 0xA6#8) = 0x6C#8 ∧
    ~~~0xCA#8 = 0x35#8 ∧ ~~~0x00CA#16 = 0xFF35#16 := by decide

/-- T3.1: `pack` lays the lane values out as printed. -/
theorem test_pack : vectorA = block8
    [0xe6, 0xa6, 0xa6, 0xb6, 0x36, 0xb6, 0xb6, 0xa6, 0x26, 0xb6, 0xb6, 0xa6, 0xb6, 0xa6, 0x36, 0xa6,
     0xa6, 0x26, 0xb6, 0xa6, 0x36, 0xb6, 0x26, 0xa6, 0x26, 0xb6, 0xa6, 0xa6, 0xb6, 0x26, 0xa6, 0xaa] := by
  decide +kernel

/-- T3.2. -/
theorem test_adder : bsadd vectorA vectorB = block8
    [0x00, 0xe0, 0xa0, 0x30, 0xa0, 0x30, 0xb0, 0x20, 0x30, 0x20, 0xb0, 0x20, 0x30, 0x30, 0x20, 0x20,
     0xb0, 0x20, 0x20, 0x20, 0xb0, 0x30, 0xb0, 0xb0, 0xa0, 0xa0, 0xb0, 0xb0, 0xa0, 0x30, 0xa0, 0xb4] := by
  decide +kernel

/-- T3.3. -/
theorem test_subtractor : bssub vectorA vectorB = block8
    [0x00, 0x06, 0x06, 0x96, 0x06, 0x06, 0x06, 0x96, 0x96, 0x16, 0x16, 0x86, 0x96, 0x96, 0x96, 0x06,
     0x16, 0x96, 0x16, 0x86, 0x16, 0x16, 0x16, 0x86, 0x96, 0x16, 0x96, 0x86, 0x96, 0x16, 0x96, 0x82] := by
  decide +kernel

/-- T4.1. -/
theorem test_shift_left : bsshl vectorH 4 = block8
    [0x00, 0x00, 0x00, 0x00, 0xd5, 0xd1, 0xd1, 0xd3, 0x53, 0xc3, 0xc3, 0xc1, 0x41, 0xc3, 0xc3, 0xc1,
     0xc3, 0xc1, 0x43, 0xc1, 0xc1, 0x41, 0xc3, 0xc1, 0x43, 0xc3, 0x41, 0xc1, 0x41, 0xc3, 0xc1, 0xe1] := by
  decide +kernel

/-- T4.1. -/
theorem test_shift_right : bsshr vectorH 5 = block8
    [0xc3, 0xc3, 0xc1, 0x41, 0xc3, 0xc3, 0xc1, 0xc3, 0xc1, 0x43, 0xc1, 0xc1, 0x41, 0xc3, 0xc1, 0x43,
     0xc3, 0x41, 0xc1, 0x41, 0xc3, 0xc1, 0xe1, 0xa3, 0x21, 0xa1, 0xa5, 0x00, 0x00, 0x00, 0x00, 0x00] := by
  decide +kernel

/-- T5.1. -/
theorem test_injector : bsconst 8 0x9E3779B9#32 = block8
    [0xff, 0x00, 0x00, 0xff, 0xff, 0xff, 0x00, 0xff, 0xff, 0x00, 0x00, 0xff, 0xff, 0xff, 0xff, 0x00,
     0xff, 0xff, 0xff, 0x00, 0xff, 0xff, 0x00, 0x00, 0x00, 0xff, 0xff, 0xff, 0xff, 0x00, 0x00, 0xff] := by
  decide +kernel

/-- T6.2: the second forward round of T1.2, whose key tells the subkeys apart. -/
theorem test_forward_round :
    fround (splat 0x69EE7311#32 : HalfBlock 8) (splat 0xB87D6B69#32) (splat 0x6805022B#32) (splat 0x76491406#32)
      (splat 0x260E5D77#32) (splat 0x4378286C#32) 0x9E3779B9#32 =
      ⟨splat 0xD1298C12#32, splat 0x37BB8148#32, 0x3C6EF372#32⟩ := by decide +kernel

/-- T6.3: the inverse round on a block that is no ciphertext, under the key of T1.2. -/
theorem test_inverse_round :
    iround (splat 0x74736574#32 : HalfBlock 8) (splat 0x2E656D20#32) (splat 0x6805022B#32) (splat 0x76491406#32)
      (splat 0x260E5D77#32) (splat 0x4378286C#32) 0x9E3779B9#32 =
      ⟨splat 0x232065BB#32, splat 0xF56FC513#32, 0x00000000#32⟩ := by decide +kernel

/-- T1.2 in the word-level form that `RunsAreTeaPerLane` gives every lane: the published vector. -/
theorem test_known_vector :
    teaEncrypt 0x6805022B#32 0x76491406#32 0x260E5D77#32 0x4378286C#32 0x74736574#32 0x2E656D20#32 32 =
      ⟨0x6A2A5D77#32, 0x0992CEF6#32, 0xC6EF3720#32⟩ := by decide +kernel

/-- T1.3 in the word-level form. -/
theorem test_known_vector_back :
    teaDecrypt 0x6805022B#32 0x76491406#32 0x260E5D77#32 0x4378286C#32 0x6A2A5D77#32 0x0992CEF6#32 32 =
      ⟨0x74736574#32, 0x2E656D20#32, 0x00000000#32⟩ := by decide +kernel

/-! ### One step on a small state -/

/-- A machine of width 8 with this engine, these host events to come and these turns prescribed. -/
def machine (e : Engine 8) (sc : List (HostEvent 8)) (sd : List Agent) : State := ⟨.w8, e, sc, sd, []⟩

/-- The idle engine of the tests: the reset state of T8.1. -/
def idle : Engine 8 := Engine.reset 8

/-- The busy engine of the tests, in the state after T8.4. -/
def busy : Engine 8 := { idle with sum := 0#32, rcnt := 32#32, busy := true }

/-- The engine after T8.5. -/
def busyBack : Engine 8 := { idle with sum := 0xC6EF3720#32, rcnt := 32#32, busy := true, dir := true }

/-- The engine of T8.12: idle, `STATUS = 0x34`. -/
def faulty : Engine 8 := { idle with err := true, ecode := 3#4 }

/-- The engine part of an answer, at width 8. -/
def engineOf : Host.Outcome State Fault Refusal → Option (Engine 8)
  | .next ⟨.w8, e, _, _, _⟩ => some e
  | _ => none

/-- The values read, at width 8. -/
def readsOf : Host.Outcome State Fault Refusal → Option (List (HostData 8))
  | .next ⟨.w8, _, _, _, r⟩ => some r
  | _ => none

/-- T8.4: the encrypt word placed on the reset state. -/
theorem test_encrypt_accepted :
    engineOf (step (State.reset.withFetchWord 32 1)) = some busy ∧ busy.status = 0x01#32 := by decide +kernel

/-- T8.5: the decrypt word placed on the reset state. -/
theorem test_decrypt_accepted :
    engineOf (step (State.reset.withFetchWord 32 2)) = some busyBack ∧ busyBack.status = 0x09#32 := by decide +kernel

/-- T8.15: `DECRYPT` during a run. -/
theorem test_decrypt_busy :
    (engineOf (exec .decrypt (machine busy [] []))).map Engine.status = some 0x25#32 := by decide +kernel

/-- T8.19's rule on the state of T8.12: accepted despite a recorded fault, `STATUS = 0x34` with `BUSY` and `DIR` set (R27, R152). -/
theorem test_decrypt_despite_fault :
    (engineOf (exec .decrypt (machine faulty [] []))).map Engine.status = some 0x3D#32 := by decide +kernel

/-- T8.6, T8.8, T8.9, T8.10, T8.12, T8.13, T8.16: the fault a write records. -/
theorem test_write_faults :
    (engineOf (hostWrite (machine idle [] []) 0xC1#8 0#32)).map Engine.status = some 0x14#32 ∧
    (engineOf (hostWrite (machine idle [] []) 0xC1#8 0x101#32)).map Engine.status = some 0x14#32 ∧
    (engineOf (hostWrite (machine idle [] []) 0xC5#8 1#32)).map Engine.status = some 0x34#32 ∧
    (engineOf (hostWrite (machine idle [] []) 0xC2#8 0#32)).map Engine.status = some 0x34#32 ∧
    engineOf (hostWrite (machine faulty [] []) 0xC1#8 3#32) = some faulty ∧
    (engineOf (hostWrite (machine busy [] []) 0x00#8 0xFF#32)).map Engine.status = some 0x25#32 ∧
    (engineOf (hostWrite (machine busy [] []) 0xFF#8 0#32)).map Engine.status = some 0x25#32 := by decide +kernel

/-- T8.1, T8.2, T8.11, T8.14, T8.17: what a read returns. -/
theorem test_reads :
    readsOf (.next (hostRead (machine idle [] []) 0xC2#8)) = some [0#32] ∧
    readsOf (.next (hostRead (machine idle [] []) 0xC0#8)) = some [0x20#32] ∧
    readsOf (.next (hostRead (machine idle [] []) 0xC1#8)) = some [0#32] ∧
    (engineOf (.next (hostRead (machine idle [] []) 0xC1#8))).map Engine.status = some 0x34#32 ∧
    readsOf (.next (hostRead (machine busy [] []) 0x00#8)) = some [0#32] ∧
    readsOf (.next (hostRead (machine busy [] []) 0xC2#8)) = some [0x01#32] := by decide +kernel

/-- T8.21, T8.22: a write keeps the low bits. -/
theorem test_writes_truncate :
    (engineOf (hostWrite (machine idle [] []) 0x00#8 0x1FF#32)).map (·.readLane .v0 0) = some 0xFF#8 ∧
    truncScalar (w := 64) 0x0000000100000005#64 = 0x00000005#32 := by decide +kernel

/-- P4, line 5: both outcomes of the interleaving exist, the write during the run and the write after it. -/
theorem test_both_interleavings :
    (engineOf (step (machine busy [.write 0x00#8 0xFF#32] [.host]))).map (·.readLane .v0 0) = some 0x00#8 ∧
    (engineOf (step (machine { busy with rcnt := 0#32 } [.write 0x00#8 0xFF#32] [.engine]))).map (·.busy) =
      some false := by decide +kernel

/-- P3, line 7: `WR ROUNDS, 2` is the transaction `(1, 0xC0, 2)`, the first event of `ENCRYPT 2`. -/
theorem test_pseudo_operations :
    encryptCall (w := 8) 2#32 = [.write 0xC0#8 2#32, .write 0xC1#8 1#32, .poll] ∧
    decOp (w := 8) = [.write 0xC1#8 2#32] ∧
    ((ldhb .v1 vectorA).getLast? = some (.write 0x3F#8 0xAA#32)) ∧
    ((rdhb (w := 8) .k3).getLast? = some (.read 0xBF#8)) := by decide +kernel

/-! ### Witnesses: for each obligation with hypotheses, inputs that meet them -/

/-- `LanesDetermineHalfBlock`: both clauses, at the last lane. -/
theorem witness_LanesDetermineHalfBlock :
    (∀ j, j < 8 → lane vectorA j = lane (block8 vectorA.toList) j) ∧
    [1#32, 2#32, 3#32, 4#32, 5#32, 6#32, 7#32, 8#32].length = 8 ∧
    lane (pack [1#32, 2#32, 3#32, 4#32, 5#32, 6#32, 7#32, 8#32] : HalfBlock 8) 7 = 8#32 := by decide +kernel

/-- `HalfBlockXorPerLane`: the last position and the last lane, on the vector of 95 section 2. -/
theorem witness_HalfBlockXorPerLane :
    31 < 32 ∧ 7 < 8 ∧
    lane (hbxor3 (splat 0xF0#32 : HalfBlock 8) (splat 0x3C#32) (splat 0x05#32)) 7 = 0xC9#32 := by decide +kernel

/-- `AdderRecurrence`: the last position. -/
theorem witness_AdderRecurrence : 31 < 32 ∧ (bsadd vectorA vectorB).word 31 = 0xB4#8 := by decide +kernel

/-- `AdderAddsPerLane`: the last lane. -/
theorem witness_AdderAddsPerLane : 7 < 8 ∧ lane (bsadd vectorA vectorB) 7 = 0xDFD10456#32 := by decide +kernel

/-- `SubtractorRecurrence`: the last position. -/
theorem witness_SubtractorRecurrence : 31 < 32 ∧ (bssub vectorA vectorB).word 31 = 0x82#8 := by decide +kernel

/-- `SubtractorSubtractsPerLane`: the last lane. -/
theorem witness_SubtractorSubtractsPerLane : 7 < 8 ∧ lane (bssub vectorA vectorB) 7 = 0xDD8A7988#32 := by
  decide +kernel

/-- `PositionsDependOnLowerOnes`: operands equal up to position 0 and different above. -/
theorem witness_PositionsDependOnLowerOnes :
    0 < 32 ∧ (splat 1#32 : HalfBlock 8) ≠ splat 3#32 ∧
    ∀ k, k ≤ 0 → (splat 1#32 : HalfBlock 8).word k = (splat 3#32).word k ∧ vectorB.word k = vectorB.word k := by
  decide +kernel

/-- `ShifterMovesPositions`: the last position moved in and the first position vacated, both ways. -/
theorem witness_ShifterMovesPositions :
    4 < 32 ∧ (bsshl vectorH 4).word 4 = 0xD5#8 ∧ (bsshl vectorH 4).word 3 = 0x00#8 ∧
    26 < 32 ∧ (bsshr vectorH 5).word 26 = 0xA5#8 ∧ (bsshr vectorH 5).word 27 = 0x00#8 := by decide +kernel

/-- `ShifterShiftsPerLane`: the largest amount and the last lane. -/
theorem witness_ShifterShiftsPerLane :
    31 ≤ 31 ∧ 7 < 8 ∧ lane (bsshl vectorH 31) 7 = 0x80000000#32 ∧ lane (bsshr vectorH 31) 7 = 1#32 := by
  decide +kernel

/-- `InjectorPerLane`: the last position and the last lane. -/
theorem witness_InjectorPerLane :
    31 < 32 ∧ (bsconst 8 0x9E3779B9#32).word 31 = 0xFF#8 ∧ 7 < 8 ∧ lane (bsconst 8 0x9E3779B9#32) 7 = 0x9E3779B9#32 := by
  decide +kernel

/-- `MixPerLane`: the last lane; T6.2's `M`. -/
theorem witness_MixPerLane :
    7 < 8 ∧ lane (mix (splat 0x2E656D20#32 : HalfBlock 8) (splat 0x6805022B#32) (splat 0x76491406#32) 0x9E3779B9#32) 7 =
      0xF57B0D9D#32 := by decide +kernel

/-- `RoundsPerLane`: the last lane; T6.1's first round in the word-level form. -/
theorem witness_RoundsPerLane :
    7 < 8 ∧ teaForward 0#32 0#32 0#32 0#32 ⟨0#32, 0#32, 0#32⟩ = ⟨0x9E3779B9#32, 0xDBE8D32F#32, 0x9E3779B9#32⟩ := by
  decide +kernel

/-- `InverseRoundInvertsForwardRound`: both clauses, T6.1 and T6.3. -/
theorem witness_InverseRoundInvertsForwardRound :
    fround (zeroHalf 8) (zeroHalf 8) (zeroHalf 8) (zeroHalf 8) (zeroHalf 8) (zeroHalf 8) 0#32 =
      ⟨splat 0x9E3779B9#32, splat 0xDBE8D32F#32, 0x9E3779B9#32⟩ ∧
    iround (zeroHalf 8) (zeroHalf 8) (zeroHalf 8) (zeroHalf 8) (zeroHalf 8) (zeroHalf 8) 0x9E3779B9#32 =
      ⟨splat 0xE079DFBE#32, splat 0x61C88647#32, 0#32⟩ := by decide +kernel

/-- `RunsAreTeaPerLane`: both clauses, the last lane, no rounds at all. -/
theorem witness_RunsAreTeaPerLane :
    (machine idle [] []).engine.busy = false ∧ 7 < (machine idle [] []).width.bits ∧
    7 < 8 ∧ (encRun vectorA vectorB vectorA vectorA vectorA vectorA 0).laneView 7 =
      ⟨0xDEADBEEF#32, 0x01234567#32, 0#32⟩ := by decide +kernel

/-- `DecryptionUndoesEncryption`: its clauses, at one round (T7.1, T6.3). -/
theorem witness_DecryptionUndoesEncryption :
    (machine idle [] []).engine.busy = false ∧
    encRun (zeroHalf 8) (zeroHalf 8) (zeroHalf 8) (zeroHalf 8) (zeroHalf 8) (zeroHalf 8) 1 =
      ⟨splat 0x9E3779B9#32, splat 0xDBE8D32F#32, 0x9E3779B9#32⟩ ∧
    decRun (zeroHalf 8) (zeroHalf 8) (zeroHalf 8) (zeroHalf 8) (zeroHalf 8) (zeroHalf 8) 1 =
      ⟨splat 0xE079DFBE#32, splat 0x61C88647#32, 0#32⟩ := by decide +kernel

/-- `LanesNeverInteract`: half-blocks that agree in the last lane and differ in another. -/
theorem witness_LanesNeverInteract :
    7 < 8 ∧ vectorA ≠ splat 0xDEADBEEF#32 ∧ lane vectorA 7 = lane (splat 0xDEADBEEF#32 : HalfBlock 8) 7 ∧
    vectorB ≠ splat 0x01234567#32 ∧ lane vectorB 7 = lane (splat 0x01234567#32 : HalfBlock 8) 7 := by decide +kernel

/-- `EncryptIsAccepted`. -/
theorem witness_EncryptIsAccepted : (machine faulty [] []).engine.busy = false := by decide

/-- `DecryptIsAccepted`. -/
theorem witness_DecryptIsAccepted : (machine faulty [] []).engine.busy = false := by decide

/-- `CommandDuringRunFaults`, with and without an earlier fault. -/
theorem witness_CommandDuringRunFaults :
    (machine busy [] []).engine.busy = true ∧ (machine { busy with err := true, ecode := 3#4 } [] []).engine.busy = true := by
  decide

/-- `CommandFrame`: both clauses. -/
theorem witness_CommandFrame :
    (∃ t, exec .encrypt (machine idle [] []) = .next t) ∧ (machine idle [] []).engine.busy = false ∧
    (∃ t, exec .decrypt (machine busy [] []) = .next t) ∧ (machine busy [] []).engine.busy = true :=
  ⟨⟨_, rfl⟩, rfl, ⟨_, rfl⟩, rfl⟩

/-- `CommandsHaveNoHistory`: an idle engine with a history. -/
theorem witness_CommandsHaveNoHistory :
    (machine { idle with sum := 0xC6EF3720#32, done := true, dir := true } [] []).engine.busy = false := by decide

/-- `RunComputesBigStep`: the first and the last `k`. -/
theorem witness_RunComputesBigStep :
    (machine { idle with rounds := 2#32 } [] []).engine.busy = false ∧ 0 ≤ (2#32).toNat ∧ 2 ≤ (2#32).toNat := by decide

/-- `PlacedCommandRunsToCompletion`, at zero rounds, with an event pending behind the command. -/
theorem witness_PlacedCommandRunsToCompletion :
    (machine { idle with rounds := 0#32 } [.poll] []).engine.busy = false ∧
    (machine { idle with rounds := 0#32 } [.poll] []).sched = [] := by decide

/-- `ZeroRoundsChangeNothing`. -/
theorem witness_ZeroRoundsChangeNothing :
    (machine { idle with rounds := 0#32 } [] []).engine.busy = false ∧
    (machine { idle with rounds := 0#32 } [] []).engine.rounds = 0#32 := by decide

/-- `ForwardRoundStep`. -/
theorem witness_ForwardRoundStep : busy.busy = true ∧ busy.dir = false ∧ busy.rcnt ≠ 0#32 := by decide

/-- `InverseRoundStep`. -/
theorem witness_InverseRoundStep : busyBack.busy = true ∧ busyBack.dir = true ∧ busyBack.rcnt ≠ 0#32 := by decide

/-- `CompletionStep`: both clauses. -/
theorem witness_CompletionStep :
    { busy with rcnt := 0#32 }.busy = true ∧ { busy with rcnt := 0#32 }.rcnt = 0#32 ∧ idle.busy = false := by decide

/-- `RunsTerminate`: both clauses. -/
theorem witness_RunsTerminate :
    (machine busy [] []).engine.busy = true ∧ (machine busy [] []).Goes busy.engineStep ∧
    (machine busy [] []).nextAgent = .engine ∧
    (machine busy [.poll] [.host]).engine.busy = true ∧ (machine busy [.poll] [.host]).Goes busy ∧
    (machine busy [.poll] [.host]).nextAgent = .host ∧ ¬ (machine busy [.poll] [.host]).HostDoes .reset :=
  ⟨rfl, ⟨_, _, _, rfl⟩, rfl, rfl, ⟨_, _, _, rfl⟩, rfl, fun h => nomatch h.2⟩

/-- `HostWriteAsSpecified`: the boundary addresses of the clauses. -/
theorem witness_HostWriteAsSpecified :
    (machine busy [] []).engine.busy = true ∧ (machine idle [] []).engine.busy = false ∧
    (0x00#8).toNat ≤ 0xBF ∧ (0xBF#8).toNat ≤ 0xBF ∧ laneAddress .v0 0 = 0x00#8 ∧ laneAddress .k3 31 = 0xBF#8 ∧
    laneAddress .v0 31 ≠ laneAddress .v1 0 ∧
    ¬ (0xC0#8).toNat ≤ 0xBF ∧ ¬ 0xC2 ≤ (0xC1#8).toNat ∧ 0xC2 ≤ (0xC2#8).toNat ∧ 0xC2 ≤ (0xFF#8).toNat := by decide

/-- `HostReadAsSpecified`: the boundary addresses of the clauses. -/
theorem witness_HostReadAsSpecified :
    (0xBF#8 ≠ 0xC2#8 ∧ (machine busy [] []).engine.busy = true) ∧
    (machine idle [] []).engine.busy = false ∧ 0x00#8 = laneAddress .v0 0 ∧ 0xBF#8 = laneAddress .k3 31 ∧
    ¬ 0xC5 ≤ (0xC4#8).toNat ∧ 0xC5 ≤ (0xC5#8).toNat ∧ 0xC5 ≤ (0xFF#8).toNat ∧ ¬ 0xC5 ≤ (0xC1#8).toNat := by decide

/-- `IllegalCommandFaults`: a wrong operation code, and a reserved bit beside a right one. -/
theorem witness_IllegalCommandFaults :
    (machine idle [] []).engine.busy = false ∧
    (0x00000003#32).setWidth 32 ≠ 0x00000001#32 ∧ (0x00000003#32).setWidth 32 ≠ 0x00000002#32 ∧
    (0x00000101#32).setWidth 32 ≠ 0x00000001#32 ∧ (0x00000101#32).setWidth 32 ≠ 0x00000002#32 := by decide

/-- `RunIsUndisturbed`: a write, a read that faults, and a read of `STATUS`. -/
theorem witness_RunIsUndisturbed :
    (machine busy [] []).engine.busy = true ∧ (HostEvent.write 0x00#8 0xFF#32 : HostEvent 8) ≠ .reset ∧
    (HostEvent.read 0x00#8 : HostEvent 8) ≠ .reset ∧ 0x00#8 ≠ 0xC2#8 ∧ (HostEvent.read 0xC2#8 : HostEvent 8) ≠ .reset := by
  decide

/-- `BadAccessFaults`: the ends of both clauses. -/
theorem witness_BadAccessFaults :
    (machine idle [] []).engine.busy = false ∧
    (0xC4#8 = 0xC2#8 ∨ 0xC4#8 = 0xC3#8 ∨ 0xC4#8 = 0xC4#8 ∨ 0xC5 ≤ (0xC4#8).toNat) ∧ 0xC5 ≤ (0xFF#8).toNat ∧
    (0xC1#8 = 0xC1#8 ∨ 0xC5 ≤ (0xC1#8).toNat) ∧ 0xC5 ≤ (0xC5#8).toNat := by decide

/-- `ReadReturnsLastWrite`: the last lane word of the store read back, and another one. -/
theorem witness_ReadReturnsLastWrite :
    (machine idle [] []).engine.busy = false ∧ laneAddress .k3 31 = 0xBF#8 ∧
    ¬ (HalfName.k2 = HalfName.k3 ∧ (31 : Fin 32) = 31) := by decide

/-- `StoreWritesCommute`: the two ends of the store. -/
theorem witness_StoreWritesCommute :
    (machine idle [] []).engine.busy = false ∧ (0x00#8).toNat ≤ 0xBF ∧ (0xBF#8).toNat ≤ 0xBF ∧ 0x00#8 ≠ 0xBF#8 := by decide

/-- `StatusRegister`: a busy engine and an idle one that meet the invariants. -/
theorem witness_StatusRegister : busy.Inv ∧ { faulty with done := true }.Inv := by decide

/-- `RcntReadsZero`: also with a fault recorded. -/
theorem witness_RcntReadsZero :
    (machine faulty [] []).Inv ∧ (machine faulty [] []).engine.busy = false := by decide

/-- `PollRepeatsWhileBusy`: both clauses. -/
theorem witness_PollRepeatsWhileBusy :
    (machine busy [] []).engine.busy = true ∧ (machine idle [] []).engine.busy = false := by decide

/-- `StepTakesTurns`: its five clauses. -/
theorem witness_StepTakesTurns :
    (machine busy [] []).nextAgent = .engine ∧ ((machine idle [] []).nextAgent = .host ∧ (machine idle [] []).script = []) ∧
    (machine busy [.reset] [.host]).HostDoes .reset ∧ (machine idle [] [.engine]).sched = .engine :: [] ∧
    (machine busy [] []).sched = [] :=
  ⟨rfl, ⟨rfl, rfl⟩, ⟨rfl, rfl⟩, rfl, rfl⟩

/-- `StepRunsDecodedCommand`. -/
theorem witness_StepRunsDecodedCommand :
    (machine idle [.write 0xC1#8 2#32] []).HostDoes (.write 0xC1#8 2#32) ∧ decode ((2#32).setWidth 32) = .ok .decrypt :=
  ⟨⟨rfl, rfl⟩, by decide⟩

/-- `StepKeepsInvariants`: from an idle state and during a run. -/
theorem witness_StepKeepsInvariants :
    (State.reset.Inv ∧ ∃ t, step State.reset = .next t) ∧
    ((machine busyBack [] []).Inv ∧ ∃ t, step (machine busyBack [] []) = .next t) :=
  ⟨⟨by decide, ⟨_, rfl⟩⟩, ⟨by decide, ⟨_, rfl⟩⟩⟩

/-- `FirstFaultIsKept`: a second fault after the first (T8.12). -/
theorem witness_FirstFaultIsKept :
    (machine faulty [.write 0xC1#8 3#32] []).Goes (faulty.record .illegalCommand) ∧
    (machine faulty [.write 0xC1#8 3#32] []).engine.err = true ∧
    ¬ (machine faulty [.write 0xC1#8 3#32] []).HostDoes .reset :=
  ⟨⟨_, _, _, rfl⟩, rfl, fun h => nomatch h.2⟩

/-- `OnlyTransactionsFault`: each of the three causes, and each way to raise it. -/
theorem witness_OnlyTransactionsFault :
    idle.err = false ∧ busy.err = false ∧
    (machine idle [.write 0xC1#8 3#32] []).Goes (idle.record .illegalCommand) ∧
    (machine busy [.write 0x00#8 0xFF#32] [.host]).Goes (busy.record .busyAccess) ∧
    (machine busy [.read 0x00#8] [.host]).Goes (busy.record .busyAccess) ∧
    (machine idle [.write 0xC2#8 0#32] []).Goes (idle.record .badAccess) ∧
    (machine idle [.read 0xC1#8] []).Goes (idle.record .badAccess) ∧
    (machine idle [.read 0xC5#8] []).Goes (idle.record .badAccess) ∧
    (idle.record .illegalCommand).err = true ∧ (busy.record .busyAccess).err = true ∧ (idle.record .badAccess).err = true :=
  ⟨rfl, rfl, ⟨_, _, _, rfl⟩, ⟨_, _, _, rfl⟩, ⟨_, _, _, rfl⟩, ⟨_, _, _, rfl⟩, ⟨_, _, _, rfl⟩, ⟨_, _, _, rfl⟩, rfl, rfl, rfl⟩

/-- `WhoChangesTheStore`: an engine turn while busy and while idle, a write of the first and of the last lane word, and a reset
that changes one. -/
theorem witness_WhoChangesTheStore :
    (machine busy [] []).Goes busy.engineStep ∧ (machine busy [] []).nextAgent = .engine ∧
    (machine idle [] [.engine]).Goes idle.engineStep ∧ (machine idle [] [.engine]).nextAgent = .engine ∧ idle.busy = false ∧
    (machine idle [.write 0xBF#8 0xFF#32] []).Goes (idle.writeLane .k3 31 0xFF#8) ∧
    (machine idle [.write 0xBF#8 0xFF#32] []).nextAgent = .host ∧
    (idle.writeLane .k3 31 0xFF#8).readLane .k3 31 ≠ idle.readLane .k3 31 ∧
    (machine (idle.writeLane .v0 0 1#8) [.reset] []).Goes idle ∧
    (machine (idle.writeLane .v0 0 1#8) [.reset] []).nextAgent = .host ∧
    idle.readLane .v0 0 ≠ (idle.writeLane .v0 0 1#8).readLane .v0 0 :=
  ⟨⟨_, _, _, rfl⟩, rfl, ⟨_, _, _, rfl⟩, rfl, rfl, ⟨_, _, _, rfl⟩, rfl, by decide +kernel, ⟨_, _, _, rfl⟩, rfl, by decide +kernel⟩

/-- `DoneStaysUntilNextCommand`: the next acceptance, and a reset. -/
theorem witness_DoneStaysUntilNextCommand :
    { idle with done := true }.done = true ∧
    (machine { idle with done := true } [.write 0xC1#8 1#32] []).Goes busy ∧ busy.done = false ∧
    (machine { idle with done := true } [.reset] []).Goes idle ∧ idle.done = false :=
  ⟨rfl, ⟨_, _, _, rfl⟩, rfl, ⟨_, _, _, rfl⟩, rfl⟩

/-- `FaultsDoNotDisturb`: the two events whose values read tell the fault fields, and that they do. -/
theorem witness_FaultsDoNotDisturb :
    (machine busy [.poll] [.host]).HostDoes .poll ∧ (machine idle [.read 0xC2#8] []).HostDoes (.read 0xC2#8) ∧
    readsOf (step (machine idle [.read 0xC2#8] [])) = some [0x00#32] ∧
    readsOf (step (machine faulty [.read 0xC2#8] [])) = some [0x34#32] :=
  ⟨⟨rfl, rfl⟩, ⟨rfl, rfl⟩, by decide +kernel, by decide +kernel⟩

/-- `ControlIsIndependentOfData`: two engines that differ in the operand store, during a run and idle, and the one event whose
value read tells them apart, at the ends of the store. -/
theorem witness_ControlIsIndependentOfData :
    (busy.PublicEq { busy with v0 := vectorA } ∧ busy ≠ { busy with v0 := vectorA } ∧ busy.busy = true) ∧
    idle.PublicEq { idle with k3 := vectorB } ∧ idle.busy = false ∧
    (machine idle [.read 0x00#8] []).HostDoes (.read (laneAddress .v0 0)) ∧
    (machine idle [.read 0xBF#8] []).HostDoes (.read (laneAddress .k3 31)) ∧
    readsOf (step (machine idle [.read 0xBF#8] [])) = some [0x00#32] ∧
    readsOf (step (machine { idle with k3 := vectorB } [.read 0xBF#8] [])) = some [0x38#32] :=
  ⟨by decide +kernel, by decide +kernel, rfl, ⟨rfl, rfl⟩, ⟨rfl, rfl⟩, by decide +kernel, by decide +kernel⟩

end Sys2Proof.Tests
end

section
/-! Proofs of the scope family (00_scope.md): half-blocks against their lane values (R12, R13), and the turns of `step` (R7, R65,
R199). -/

namespace Sys2Proof

variable {w : Nat}

/-- A half-block is determined by its lane values: bit `j` of word `i` is bit `i` of lane `j`. -/
theorem halfBlock_lane_ext {A B : HalfBlock w} (h : ∀ j, j < w → lane A j = lane B j) : A = B := by
  refine halfBlock_ext fun i _ => BitVec.eq_of_getLsbD_eq fun j hj => ?_
  calc (A.word i).getLsbD j
      _ = (lane A j).getLsbD i := (lane_getLsbD A j i).symm
      _ = (lane B j).getLsbD i := by rw [h j hj]
      _ = (B.word i).getLsbD j := lane_getLsbD B j i

/-- Word `i` of a packed half-block is the sum of R13. -/
theorem word_pack (xs : List (BitVec 32)) {i : Nat} (h : i < 32) :
    (pack xs : HalfBlock w).word i = BitVec.ofNat w (packSum i xs) :=
  word_tabulate_of_lt _ h

/-- Lane `j` of a packed half-block is the `j`-th value of the list, and 0 where the list holds none (R13). -/
theorem lane_pack (xs : List (BitVec 32)) {j : Nat} (hj : j < w) :
    lane (pack xs : HalfBlock w) j = xs.getD j 0#32 := by
  refine BitVec.eq_of_getLsbD_eq fun i hi => ?_
  rw [lane_getLsbD, word_pack xs hi, BitVec.getLsbD_ofNat, packSum_testBit]
  simp [hj]

end Sys2Proof

namespace Sys2Proof.Machine

/-- The next agent is the prescribed one. -/
theorem nextAgent_of_sched_cons {s : State} {a : Agent} {rest : List Agent} (h : s.sched = a :: rest) :
    s.nextAgent = a := by
  simp only [State.nextAgent, h]

/-- With no turn prescribed, the engine moves while it is busy, else the host. -/
theorem nextAgent_of_sched_nil {s : State} (h : s.sched = []) :
    s.nextAgent = if s.engine.busy then .engine else .host := by
  simp only [State.nextAgent, h]

end Sys2Proof.Machine

open Sys2Proof Sys2Proof.Machine

/-- Settles O5: lane values and lane words are the same bits, read across and read down (R11 to R13). -/
theorem lanesDetermineHalfBlock : Obligations.LanesDetermineHalfBlock := by
  intro w
  refine ⟨fun A B h => halfBlock_lane_ext h, fun xs hlen j hj => ?_⟩
  rw [lane_pack xs (hlen ▸ hj), List.getD_eq_getElem xs _ hj]

/-- Settles O50: one clause per case of `takeTurn`, and the two cases of `nextAgent`. -/
theorem stepTakesTurns : Obligations.StepTakesTurns := fun s =>
  ⟨takeTurn_engine s, takeTurn_host_idle s, takeTurn_host s,
    fun _ _ h => nextAgent_of_sched_cons h, nextAgent_of_sched_nil⟩

end

section
/-! Proofs of the state family (10_state.md): the `STATUS` word (R27), the state after reset (R34), the invariants (R35), and who
changes the operand store (R22, R23). -/

namespace Sys2Proof.Machine

variable {w : Nat}

/-! ### The `STATUS` word -/

/-- The `STATUS` word from its most significant field down, one flag at a time (R27). -/
theorem status_eq_concat (e : Engine w) :
    e.status = ((((0#24 ++ e.ecode).concat e.dir).concat e.err).concat e.done).concat e.busy := rfl

theorem status_busy (e : Engine w) : e.status.getLsbD 0 = e.busy := by
  simp only [status_eq_concat, BitVec.getLsbD_concat_zero]

theorem status_done (e : Engine w) : e.status.getLsbD 1 = e.done := by
  simp only [status_eq_concat, BitVec.getLsbD_concat_succ, BitVec.getLsbD_concat_zero]

theorem status_err (e : Engine w) : e.status.getLsbD 2 = e.err := by
  simp only [status_eq_concat, BitVec.getLsbD_concat_succ, BitVec.getLsbD_concat_zero]

theorem status_dir (e : Engine w) : e.status.getLsbD 3 = e.dir := by
  simp only [status_eq_concat, BitVec.getLsbD_concat_succ, BitVec.getLsbD_concat_zero]

/-- Above the four flags stands `ECODE`, with zeros above it. -/
theorem status_getLsbD_add_four (e : Engine w) (i : Nat) : e.status.getLsbD (i + 4) = e.ecode.getLsbD i := by
  simp only [status_eq_concat, BitVec.getLsbD_concat_succ, BitVec.getLsbD_append, BitVec.getLsbD_zero]
  simpa using BitVec.lt_of_getLsbD

theorem status_ecode (e : Engine w) : e.status.extractLsb' 4 4 = e.ecode := by
  refine BitVec.eq_of_getLsbD_eq fun i hi => ?_
  rw [BitVec.getLsbD_extractLsb', Nat.add_comm 4 i, status_getLsbD_add_four]
  simp [hi]

theorem status_reserved (e : Engine w) : e.status.extractLsb' 8 24 = 0#24 := by
  refine BitVec.eq_of_getLsbD_eq fun i _ => ?_
  rw [BitVec.getLsbD_extractLsb', show 8 + i = (i + 4) + 4 by omega, status_getLsbD_add_four,
    BitVec.getLsbD_of_ge _ _ (by omega)]
  simp

theorem reset_status : (Engine.reset w).status = 0x00000000#32 := by simp [Engine.status]

/-- A read of `STATUS` answers in every state and leaves the engine as it is (R27, R55). -/
theorem hostRead_status (s : State) : hostRead s 0xC2#8 = s.answer s.engine (zextScalar s.engine.status) := by
  simp only [hostRead, readPort_status]

/-- A read of `RCNT` by an idle host. -/
theorem hostRead_rcnt (s : State) (hb : s.engine.busy = false) :
    hostRead s 0xC4#8 = s.answer s.engine (zextScalar s.engine.rcnt) := by
  simp only [hostRead, readPort_rcnt _ hb]

/-- Recording a fault changes the fault fields only (R170). -/
theorem faulted_eqButFaults (e : Engine w) (c : BitVec 4) : e.EqButFaults (e.faulted c) := rfl

/-- A write of `STATUS` records a fault, whatever the engine is doing (R57, R58). -/
theorem hostWrite_status (s : State) (d : HostData s.width.bits) :
    ∃ c, hostWrite s 0xC2#8 d = .next (s.withEngine (s.engine.faulted c)) := by
  cases hb : s.engine.busy with
  | true => exact ⟨_, hostWrite_busy s _ d hb⟩
  | false => exact ⟨_, hostWrite_bad s _ d hb (by decide)⟩

/-! ### Commands and the state before them -/

/-- Acceptance overwrites `SUM`, `RCNT`, `DONE` and `DIR` (R150, R151). -/
theorem accept_forgets (e : Engine w) (i : Instr) (x y : Scalar) (p q : Bool) :
    Engine.accept { e with sum := x, rcnt := y, done := p, dir := q } i = e.accept i := by
  cases i <;> rfl

/-! ### The invariants are kept, operation by operation -/

theorem reset_inv : (Engine.reset w).Inv := by simp [Engine.Inv]

/-- The invariants speak of the public part of the state only. -/
theorem inv_of_publicEq {e e' : Engine w} (h : e.PublicEq e') (hi : e.Inv) : e'.Inv := by
  obtain ⟨hs, hr, hro, hb, hd, hdir, he, hc⟩ := h
  simpa only [Engine.Inv, hs, hr, hro, hb, hd, hdir, he, hc] using hi

theorem writeLane_publicEq (e : Engine w) (h : HalfName) (i : Fin 32) (x : LaneWord w) :
    e.PublicEq (e.writeLane h i x) := by
  simp [Engine.PublicEq]

/-- Recording a fault keeps the invariants: the code it may write is one of R171's. -/
theorem faulted_inv {e : Engine w} (hi : e.Inv) {c : BitVec 4} (hc : c ≠ 0#4) (hle : c.toNat ≤ 3) :
    (e.faulted c).Inv := by
  obtain ⟨hdone, hidle, herr, hcode, henc, hdec⟩ := hi
  refine ⟨hdone, hidle, ?_, ?_, henc, hdec⟩
  · cases he : e.err with
    | false => simp [he, hc]
    | true => simp [he, ← herr]
  · rw [Engine.faulted_ecode]
    split
    · exact hle
    · exact hcode

/-- `ROUNDS` can change between runs only, where no invariant reads it. -/
theorem writeRounds_inv {e : Engine w} (hi : e.Inv) (hb : e.busy = false) (r : Scalar) : (e.writeRounds r).Inv := by
  obtain ⟨hdone, hidle, herr, hcode, -, -⟩ := hi
  exact ⟨hdone, hidle, herr, hcode, by simp [hb], by simp [hb]⟩

/-- Acceptance establishes the clauses on `SUM` (R150, R151). -/
theorem accept_inv {e : Engine w} (hi : e.Inv) (i : Instr) : (e.accept i).Inv := by
  obtain ⟨-, -, herr, hcode, -, -⟩ := hi
  refine ⟨by simp, by simp, by simpa using herr, by simpa using hcode, ?_, ?_⟩
  · cases i <;> simp [Engine.accept]
  · cases i <;> simp [Engine.accept, Config.delta]

/-- Completion, which comes when `RCNT` is 0 (R155). -/
theorem endFlags_inv {e : Engine w} (hi : e.Inv) (hr : e.rcnt = 0#32) : e.endFlags.Inv := by
  obtain ⟨-, -, herr, hcode, -, -⟩ := hi
  exact ⟨by simp, by simp [hr], herr, hcode, by simp, by simp⟩

/-- A forward round adds `DELTA` to `SUM` as it takes 1 from `RCNT` (R139, R153). -/
theorem forwardStep_inv {e : Engine w} (hi : e.Inv) (hb : e.busy = true) (hd : e.dir = false) :
    e.forwardStep.Inv := by
  obtain ⟨hdone, -, herr, hcode, henc, -⟩ := hi
  refine ⟨hdone, by simp [Engine.forwardStep, hb], herr, hcode, fun _ _ => ?_, by simp [Engine.forwardStep, hd]⟩
  calc e.forwardStep.sum
      _ = e.sum + 0x9e3779b9#32 := rfl
      _ = 0x9e3779b9#32 * (e.rounds - e.rcnt) + 0x9e3779b9#32 := by rw [henc hb hd]
      _ = 0x9e3779b9#32 * (e.rounds - (e.rcnt - 1#32)) := by grind

/-- An inverse round takes `DELTA` from `SUM` as it takes 1 from `RCNT` (R141, R154). -/
theorem inverseStep_inv {e : Engine w} (hi : e.Inv) (hb : e.busy = true) (hd : e.dir = true) :
    e.inverseStep.Inv := by
  obtain ⟨hdone, -, herr, hcode, -, hdec⟩ := hi
  refine ⟨hdone, by simp [Engine.inverseStep, hb], herr, hcode, by simp [Engine.inverseStep, hd], fun _ _ => ?_⟩
  calc e.inverseStep.sum
      _ = e.sum - 0x9e3779b9#32 := rfl
      _ = 0x9e3779b9#32 * e.rcnt - 0x9e3779b9#32 := by rw [hdec hb hd]
      _ = 0x9e3779b9#32 * (e.rcnt - 1#32) := by grind

theorem engineStep_inv {e : Engine w} (hi : e.Inv) : e.engineStep.Inv := by
  have h := engineStep_is e
  generalize e.engineStep = e' at h ⊢
  cases h with
  | idle => exact hi
  | completion _ hr => exact endFlags_inv hi hr
  | forward hb _ hd => exact forwardStep_inv hi hb hd
  | inverse hb _ hd => exact inverseStep_inv hi hb hd

theorem eventEffect_inv {e e' : Engine w} {ev : HostEvent w} (h : EventEffect e ev e') (hi : e.Inv) : e'.Inv := by
  cases h with
  | nothing => exact hi
  | reset => exact reset_inv
  | busyWrite | busyRead | illegal | badWrite | badRead => exact faulted_inv hi (by decide) (by decide)
  | lane => exact inv_of_publicEq (writeLane_publicEq ..) hi
  | rounds hb => exact writeRounds_inv hi hb _
  | accepted => exact accept_inv hi _

theorem stepEffect_inv {s : State} {e : Engine s.width.bits} (h : StepEffect s e) (hi : s.Inv) : e.Inv := by
  cases h with
  | engine => exact engineStep_inv hi
  | hostIdle => exact hi
  | host _ _ _ he => exact eventEffect_inv he hi

/-- The inversion lemma of `step`, from its answer: the next state has the same width and an engine by one of the effects. -/
theorem step_next_effect {s t : State} (h : step s = .next t) :
    ∃ e sc sd rd, t = ⟨s.width, e, sc, sd, rd⟩ ∧ StepEffect s e := by
  obtain ⟨e, ⟨sc, sd, rd, hgo⟩, he⟩ := step_effect s
  exact ⟨e, sc, sd, rd, Host.Outcome.next.inj (h.symm.trans hgo), he⟩

/-! ### Who changes the operand store -/

@[simp] theorem faulted_readLane (e : Engine w) (c : BitVec 4) (h : HalfName) (i : Fin 32) :
    (e.faulted c).readLane h i = e.readLane h i := by
  cases h <;> rfl

@[simp] theorem writeRounds_readLane (e : Engine w) (r : Scalar) (h : HalfName) (i : Fin 32) :
    (e.writeRounds r).readLane h i = e.readLane h i := by
  cases h <;> rfl

theorem engineStep_idle {e : Engine w} (hb : e.busy = false) : e.engineStep = e := by
  simp [Engine.engineStep, hb]

/-- A host event changes a lane word only if it is a reset, or the write of that word while idle. -/
theorem eventEffect_readLane_ne {e e' : Engine w} {ev : HostEvent w} (he : EventEffect e ev e') {h : HalfName}
    {i : Fin 32} (hne : e'.readLane h i ≠ e.readLane h i) :
    ev = .reset ∨ (e.busy = false ∧ ∃ d, ev = .write (laneAddress h i) d) := by
  cases he with
  | nothing => exact absurd rfl hne
  | reset hev => exact .inl hev
  | busyWrite | busyRead | illegal | badWrite | badRead => exact absurd (faulted_readLane ..) hne
  | rounds => exact absurd (writeRounds_readLane ..) hne
  | accepted => exact absurd (Engine.accept_readLane ..) hne
  | lane hb n k d hev =>
    rw [readLane_writeLane] at hne
    split at hne
    · rename_i hsame
      obtain ⟨rfl, rfl⟩ := hsame
      exact .inr ⟨hb, d, hev⟩
    · exact absurd rfl hne

end Sys2Proof.Machine

open Sys2Proof Sys2Proof.Machine

/-- Settles O54: each effect of a step keeps the invariants (R35). -/
theorem stepKeepsInvariants : Obligations.StepKeepsInvariants := by
  intro s t hi h
  obtain ⟨e, sc, sd, rd, rfl, he⟩ := step_next_effect h
  exact stepEffect_inv (s := s) he hi

/-- Settles O58: by the effects of a step, which belong to one of the two agents each. -/
theorem whoChangesTheStore : Obligations.WhoChangesTheStore := by
  intro s e hgo
  cases Goes_effect hgo with
  | engine ha =>
    obtain ⟨h0, h1, h2, h3, hr, -⟩ := engineStep_frame s.engine
    refine ⟨fun _ => ⟨h0, h1, h2, h3, hr, fun hb => ?_⟩, fun hh => ?_⟩
    · simp [engineStep_idle hb]
    · simp [ha] at hh
  | hostIdle ha => exact ⟨fun hh => by simp [ha] at hh, fun _ _ _ hne => absurd rfl hne⟩
  | host ev hev _ he =>
    obtain ⟨ha, -⟩ := id hev
    refine ⟨fun hh => by simp [ha] at hh, fun _ h i hne => ?_⟩
    rcases eventEffect_readLane_ne he hne with rfl | ⟨hb, d, rfl⟩
    · exact .inl hev
    · exact .inr ⟨hb, d, hev⟩

/-- Settles O28: an idle engine accepts, and acceptance overwrites the four fields (R24, R33). -/
theorem commandsHaveNoHistory : Obligations.CommandsHaveNoHistory := by
  intro i s x y p q hb
  rw [exec_idle i s hb, exec_idle]
  · rw [State.withEngine_engine, accept_forgets]
    rfl
  · exact hb

/-- Settles O44: the layout of `STATUS`, its reads and its writes (R27). -/
theorem statusRegister : Obligations.StatusRegister := by
  refine ⟨fun w e => ⟨status_busy e, status_done e, status_err e, status_dir e,
    status_ecode e, status_reserved e, ?_⟩, hostRead_status, fun s d => ?_⟩
  · rintro ⟨hdone, -⟩ ⟨hb, hd⟩
    simp [hdone hb] at hd
  · obtain ⟨c, h⟩ := hostWrite_status s d
    exact ⟨_, h, faulted_eqButFaults _ c⟩

/-- Settles O46: idle, the invariant gives `RCNT = 0`, and that is the value read (R25). -/
theorem rcntReadsZero : Obligations.RcntReadsZero := by
  rintro s ⟨-, hidle, -⟩ hb
  rw [hostRead_rcnt s hb, hidle hb]
  simp [zextScalar]

/-- Settles O48: field by field, the reset values of R34. -/
theorem resetStateAsSpecified : Obligations.ResetStateAsSpecified := fun _ =>
  ⟨readLane_reset, Engine.reset_sum, Engine.reset_rcnt, Engine.reset_rounds, reset_status⟩

/-- Settles O53: `State.reset` is one of the reset states. -/
theorem resetMeetsInvariants : Obligations.ResetMeetsInvariants := ⟨fun _ => reset_inv, reset_inv⟩

end

section
/-! Proofs of the memory family (20_memory.md): the widths of the port (R53), writes and reads clause by clause (R54, R55, R57, R58),
and the operand store as a memory (R63, R65). -/

namespace Sys2Proof.Machine

variable {w : Nat}

/-! ### Widths -/

/-- A lane word survives the port (R53). -/
theorem truncLane_zextLane (x : LaneWord w) : truncLane (zextLane x) = x := by
  rw [truncLane, zextLane, BitVec.setWidth_setWidth_of_le x (Nat.le_max_left w 32), BitVec.setWidth_eq]

/-- Zero extension keeps the value of a lane word. -/
theorem zextLane_toNat (x : LaneWord w) : (zextLane x).toNat = x.toNat :=
  BitVec.toNat_setWidth_of_le (Nat.le_max_left w 32)

/-- Zero extension keeps the value of a control word. -/
theorem zextScalar_toNat (c : Scalar) : (zextScalar c : HostData w).toNat = c.toNat :=
  BitVec.toNat_setWidth_of_le (Nat.le_max_right w 32)

/-! ### The operand store -/

/-- Different lane words have different addresses. -/
theorem laneAddress_eq_iff {h h' : HalfName} {i i' : Fin 32} :
    laneAddress h i = laneAddress h' i' ↔ h = h' ∧ i = i' :=
  ⟨laneAddress_inj, by rintro ⟨rfl, rfl⟩; rfl⟩

/-- Engines with the same public part differ at most in the operand store. -/
theorem eqButStore_of_publicEq {e e' : Engine w} (h : e.PublicEq e') : e.EqButStore e' := by
  obtain ⟨hs, hr, hro, hb, hd, hdir, he, hc⟩ := h
  simp only [Engine.EqButStore, hs, hr, hro, hb, hd, hdir, he, hc]

/-- Writes of two different lane words can be exchanged (R63). -/
theorem writeLane_comm (e : Engine w) {h h' : HalfName} {i i' : Fin 32} (x y : LaneWord w)
    (hne : ¬(h = h' ∧ i = i')) :
    (e.writeLane h i x).writeLane h' i' y = (e.writeLane h' i' y).writeLane h i x := by
  refine Engine.ext_store (eqButStore_of_publicEq (by simp [Engine.PublicEq])) fun n k => ?_
  simp only [readLane_writeLane]
  by_cases h1 : n = h ∧ k = i
  · obtain ⟨rfl, rfl⟩ := h1
    simp only [if_neg hne]
  · simp only [if_neg h1]

/-! ### Host transactions -/

/-- A write to `CMD` runs the command of a legal word and records a fault for any other (R80, R84). -/
theorem command_eq (s : State) (c : Scalar) :
    command s c =
      if c = 0x00000001#32 then exec .encrypt s
      else if c = 0x00000002#32 then exec .decrypt s
      else .next (s.withEngine (s.engine.faulted 1#4)) := by
  split
  · next h => exact command_legal s c _ (by simp [decode_eq, h])
  split
  · next h => exact command_legal s c _ (by simp [decode_eq, h])
  · next h1 h2 => exact command_illegal s c h1 h2

/-- A read that yields a value leaves the engine as it is (R55). -/
theorem hostRead_of_ok {s : State} {a : Address} {v : HostData s.width.bits} (h : s.engine.readPort a = .ok v) :
    hostRead s a = s.answer s.engine v := by
  simp only [hostRead, h]

/-- A read that raises a fault records it and returns 0 (R57, R58). -/
theorem hostRead_of_error {s : State} {a : Address} {c : FaultCause} (h : s.engine.readPort a = .error c) :
    hostRead s a = s.answer (s.engine.faulted c.code) 0 := by
  simp only [hostRead, h, Engine.record_eq_faulted]

/-- Any read but of `STATUS` during a run (R57). -/
theorem hostRead_busy (s : State) {a : Address} (hb : s.engine.busy = true) (ha : a ≠ 0xC2#8) :
    hostRead s a = s.answer (s.engine.faulted 2#4) 0 :=
  hostRead_of_error (readPort_busy _ hb ha)

/-- The bad reads while idle (R58). -/
theorem hostRead_bad (s : State) (a : Address) (hb : s.engine.busy = false) (ha : a = 0xC1#8 ∨ 0xC5 ≤ a.toNat) :
    hostRead s a = s.answer (s.engine.faulted 3#4) 0 :=
  hostRead_of_error (readPort_bad _ a hb ha)

/-- A read of a lane word by an idle host. -/
theorem hostRead_lane (s : State) (h : HalfName) (i : Fin 32) (hb : s.engine.busy = false) :
    hostRead s (laneAddress h i) = s.answer s.engine (zextLane (s.engine.readLane h i)) :=
  hostRead_of_ok (readPort_lane _ h i hb)

/-- The write of a lane word that follows an earlier change of the engine. -/
theorem hostWrite_lane_withEngine (s : State) (e : Engine s.width.bits) (h : HalfName) (i : Fin 32)
    (d : HostData s.width.bits) (hb : e.busy = false) :
    hostWrite (s.withEngine e) (laneAddress h i) d = .next (s.withEngine (e.writeLane h i (truncLane d))) :=
  hostWrite_lane (s.withEngine e) h i d hb

/-- The read of a lane word that follows an earlier change of the engine. -/
theorem hostRead_lane_withEngine (s : State) (e : Engine s.width.bits) (h : HalfName) (i : Fin 32)
    (hb : e.busy = false) :
    hostRead (s.withEngine e) (laneAddress h i) = (s.withEngine e).answer e (zextLane (e.readLane h i)) :=
  hostRead_lane (s.withEngine e) h i hb

end Sys2Proof.Machine

open Sys2Proof Sys2Proof.Machine

/-- Settles O36: the busy test first, then one clause per kind of address (R54, R56). -/
theorem hostWriteAsSpecified : Obligations.HostWriteAsSpecified := by
  intro s a d
  refine ⟨hostWrite_busy s a d, fun hb => ⟨fun ha => ?_, ?_, ?_, hostWrite_bad s a d hb⟩⟩
  · obtain ⟨h, i, rfl⟩ := exists_laneAddress a ha
    refine ⟨_, hostWrite_lane s h i d hb, writeLane_eqButStore .., fun h' i' => ?_⟩
    simp only [readLane_writeLane, laneAddress_eq_iff, truncLane]
  · rintro rfl
    exact hostWrite_rounds s d hb
  · rintro rfl
    rw [hostWrite_cmd s d hb, command_eq, truncScalar]

/-- Settles O37: `STATUS` at any time, then the busy test, then one clause per kind of address (R55). -/
theorem hostReadAsSpecified : Obligations.HostReadAsSpecified := by
  intro s a
  refine ⟨?_, fun ha hb => hostRead_busy s hb ha, fun hb => ⟨?_, ?_, ?_, ?_, hostRead_bad s a hb⟩⟩
  · rintro rfl
    exact hostRead_status s
  · rintro h i rfl
    exact hostRead_lane s h i hb
  · rintro rfl
    exact hostRead_of_ok (readPort_rounds _ hb)
  · rintro rfl
    exact hostRead_of_ok (readPort_sum _ hb)
  · rintro rfl
    exact hostRead_rcnt s hb

/-- Settles O40: by the kinds of host event; `POLL` and a read of `STATUS` leave the engine as it is (R57). -/
theorem runIsUndisturbed : Obligations.RunIsUndisturbed := by
  intro s ev hb hev
  cases ev with
  | write a d =>
    exact ⟨_, s.script, s.reads, hostWrite_busy s a d hb, faulted_eqButFaults _ _, fun _ _ _ => ⟨rfl, rfl⟩, nofun⟩
  | read a =>
    by_cases ha : a = 0xC2#8
    · subst ha
      refine ⟨_, s.script, _, congrArg _ (hostRead_status s), rfl, nofun, fun _ h hne => ?_⟩
      cases h
      exact absurd rfl hne
    · exact ⟨_, s.script, _, congrArg _ (hostRead_busy s hb ha), faulted_eqButFaults _ _, nofun,
        fun _ _ _ => ⟨rfl, rfl⟩⟩
  | poll => exact ⟨s.engine, _, _, rfl, rfl, nofun, nofun⟩
  | reset => exact absurd rfl hev

/-- Settles O42: a write keeps the engine idle, and then read after write (R54, R55, R65). -/
theorem readReturnsLastWrite : Obligations.ReadReturnsLastWrite := by
  intro s h i d hb
  refine ⟨_, hostWrite_lane s h i d hb, fun h' i' => ?_⟩
  rw [hostRead_lane_withEngine s _ h' i' (by simpa using hb), readLane_writeLane]
  split <;> rfl

/-- Settles O43: both addresses name lane words, different ones, and those writes can be exchanged (R63). -/
theorem storeWritesCommute : Obligations.StoreWritesCommute := by
  intro s a b x y hb ha hb' hne
  obtain ⟨h, i, rfl⟩ := exists_laneAddress a ha
  obtain ⟨h', i', rfl⟩ := exists_laneAddress b hb'
  have hcomm := writeLane_comm s.engine (truncLane x) (truncLane y) (mt laneAddress_eq_iff.mpr hne)
  refine ⟨_, _, _, hostWrite_lane s h i x hb, hostWrite_lane s h' i' y hb,
    hostWrite_lane_withEngine s _ h' i' y (by simpa using hb), ?_⟩
  rw [hostWrite_lane_withEngine s _ h i x (by simpa using hb), hcomm]

/-- Settles O38: the port is at least as wide as a lane word and as a control word (R53). -/
theorem portWidths : Obligations.PortWidths := fun _ x c d =>
  ⟨truncLane_zextLane x, truncScalar_zextScalar c, BitVec.toNat_setWidth _ d, BitVec.toNat_setWidth _ d,
    zextLane_toNat x, zextScalar_toNat c⟩

/-- Settles O41: the bad writes are those from `0xC2` up (R58). -/
theorem badAccessFaults : Obligations.BadAccessFaults := by
  intro s a hb
  refine ⟨fun ha d => hostWrite_bad s a d hb ?_, hostRead_bad s a hb⟩
  rcases ha with rfl | rfl | rfl | ha
  · decide
  · decide
  · decide
  · omega

end

section
/-! Proofs of the encoding family (30_encoding.md): the decoder and the encoder against each other and against format `C` (R80, R81,
R83, R84), what a write to `CMD` does in every state, and `POLL` (R87). -/

namespace Sys2Proof

/-! ### Command words -/

/-- The command set is the two commands of R83 and no other. -/
theorem exists_instr_iff {p : Instr → Prop} : (∃ i, p i) ↔ p .encrypt ∨ p .decrypt := by
  refine ⟨?_, fun h => h.elim (⟨_, ·⟩) (⟨_, ·⟩)⟩
  rintro ⟨i, h⟩
  cases i with
  | encrypt => exact .inl h
  | decrypt => exact .inr h

theorem encode_encrypt : encode .encrypt = 0x00000001#32 := rfl

theorem encode_decrypt : encode .decrypt = 0x00000002#32 := rfl

/-- A word decodes to a command exactly when it is the command's own word (R80, R83). -/
theorem decode_eq_ok_iff {c : Scalar} {i : Instr} : decode c = .ok i ↔ c = encode i := by
  rw [decode_eq]
  split
  · next h => cases i <;> simp [h, encode_encrypt, encode_decrypt]
  split
  · next h => cases i <;> simp [h, encode_encrypt, encode_decrypt]
  · next h1 h2 => cases i <;> simp [h1, h2, encode_encrypt, encode_decrypt]

theorem decode_encode (i : Instr) : decode (encode i) = .ok i := decode_eq_ok_iff.mpr rfl

/-- The decoder is total: it rejects exactly the words that are no command. -/
theorem exists_decode_eq_error_iff {c : Scalar} :
    (∃ err, decode c = .error err) ↔ ¬∃ i, decode c = .ok i := by
  cases decode c <;> simp

/-! ### Format `C` -/

/-- A command word is its two fields side by side (R81). -/
theorem rsvField_append_opField (c : Scalar) : rsvField c ++ opField c = c := BitVec.extractLsb'_append_extractLsb'

/-- The words of format `C` with a given operation code, by their fields. -/
theorem eq_formatC_iff {c : Scalar} {op : BitVec 8} : c = formatC op ↔ rsvField c = 0#24 ∧ opField c = op := by
  constructor
  · rintro rfl
    exact ⟨BitVec.extractLsb'_append_eq_left, BitVec.extractLsb'_append_eq_right⟩
  · rintro ⟨hrsv, hop⟩
    rw [formatC, ← hrsv, ← hop, rsvField_append_opField]

end Sys2Proof

namespace Sys2Proof.Machine

/-! ### Writes to `CMD` -/

/-- A write to `CMD` of data that decodes to a command runs the command: while idle it is accepted, and during a run the write and
`exec` record the same fault (R54, R57, R80; log entry 4). -/
theorem hostWrite_cmd_of_decode (s : State) {d : HostData s.width.bits} {i : Instr}
    (h : decode (truncScalar d) = .ok i) : hostWrite s 0xC1#8 d = exec i s := by
  cases hb : s.engine.busy with
  | false => rw [hostWrite_cmd s d hb, command_legal s _ i h]
  | true => rw [hostWrite_busy s _ d hb, exec_busy i s hb, State.record_eq, FaultCause.code]

/-- The step whose host event writes a command to `CMD`. -/
theorem step_of_hostDoes_command {s : State} {d : HostData s.width.bits} {i : Instr}
    (hev : s.HostDoes (.write 0xC1#8 d)) (h : decode (truncScalar d) = .ok i) : step s = exec i s.afterEvent :=
  calc step s
    _ = hostEvent s.afterEvent (.write 0xC1#8 d) := takeTurn_host s _ hev
    _ = hostWrite s.afterEvent 0xC1#8 d := hostEvent_write ..
    _ = exec i s.afterEvent := hostWrite_cmd_of_decode s.afterEvent h

/-- A placed command word is the host's next event. -/
theorem placeCommand_hostDoes (s : State) (c : Scalar) : (s.placeCommand c).HostDoes (writeCommand c) := ⟨rfl, rfl⟩

/-- Using up the placed event leaves the state it was placed in. -/
theorem placeCommand_afterEvent (s : State) (c : Scalar) : (s.placeCommand c).afterEvent = s := rfl

end Sys2Proof.Machine

open Sys2Proof Sys2Proof.Machine

/-- Settles O2: a word is accepted exactly as some command's own word, and the command words are the two of R83. -/
theorem decodeInvertsEncode : Obligations.DecodeInvertsEncode := by
  intro c
  refine ⟨fun i => decode_eq_ok_iff, ?_⟩
  rw [exists_decode_eq_error_iff, exists_instr_iff, decode_eq_ok_iff, decode_eq_ok_iff, not_or,
    encode_encrypt, encode_decrypt]

/-- Settles O3: a command's word is format `C` with the command's operation code, and the fields of such a word are known (R81). -/
theorem legalWordsByFields : Obligations.LegalWordsByFields := by
  intro c
  calc (∃ i, decode c = .ok i)
    _ ↔ ∃ i, rsvField c = 0#24 ∧ opField c = opcode i := by simp only [decode_eq_ok_iff, encode, eq_formatC_iff]
    _ ↔ rsvField c = 0#24 ∧ ∃ i, opField c = opcode i := exists_and_left
    _ ↔ rsvField c = 0#24 ∧ (opField c = 0x01#8 ∨ opField c = 0x02#8) := by rw [exists_instr_iff]; rfl

/-- Settles O4: the placed word survives the port, and its step is the step of a write to `CMD` (R80, R83, R57). -/
theorem encodedCommandRuns : Obligations.EncodedCommandRuns := by
  intro i s
  have hdec : decode (truncScalar (zextScalar (encode i) : HostData s.width.bits)) = .ok i := by
    rw [truncScalar_zextScalar, decode_encode]
  rw [State.withFetchWord, tableWord_toNat]
  exact step_of_hostDoes_command (placeCommand_hostDoes s (encode i)) hdec

/-- Settles O1: the two words of the map by `decode_encode`; the two illegal words fail the two checks of format `C`. -/
theorem commandWordsDecode : Obligations.CommandWordsDecode :=
  ⟨decode_encode .encrypt, decode_encode .decrypt, encode_encrypt, encode_decrypt, by decide, by decide⟩

/-- Settles O39: an illegal word reaches the decoder while idle, and its fault is recorded by R170. -/
theorem illegalCommandFaults : Obligations.IllegalCommandFaults := by
  intro s d hb h1 h2
  calc hostWrite s 0xC1#8 d
    _ = command s (truncScalar d) := hostWrite_cmd s d hb
    _ = .next (s.withEngine (s.engine.faulted 1#4)) := command_illegal s _ h1 h2
    _ = .next (s.record .illegalCommand) := by rw [State.record_eq, FaultCause.code]

/-- Settles O47: the two values of `BUSY` (R87). -/
theorem pollRepeatsWhileBusy : Obligations.PollRepeatsWhileBusy := by
  intro s
  refine ⟨fun hb => ?_, fun hb => ?_⟩
  · rw [hostEvent_poll, State.pollOnce, if_pos hb, zextScalar]
  · rw [hostEvent_poll, State.pollOnce, if_neg (by simp [hb]), zextScalar]

/-- Settles O51: the host's next event is the write of a word that decodes to the command (R80, R54). -/
theorem stepRunsDecodedCommand : Obligations.StepRunsDecodedCommand := fun _ _ _ => step_of_hostDoes_command

end

section
/-! Proofs of the lane family (40_lane_primitives.md): each lane of a datapath operation is the 32-bit operation on that lane (R105,
R111, R113, R122, R132), so each lane of a run is TEA on that lane (R106, R157), and no step depends on the operand store but for
the lane words an idle host reads (R108, R197). -/

namespace Sys2Proof

variable {w : Nat}

/-! ### One lane of each datapath operation -/

/-- `HBXOR3` in one lane (R105). -/
@[simp] theorem lane_hbxor3 (A B C : HalfBlock w) (j : Nat) :
    lane (hbxor3 A B C) j = lane A j ^^^ lane B j ^^^ lane C j := by
  refine BitVec.eq_of_getLsbD_eq fun i _ => ?_
  simp only [BitVec.getLsbD_xor, lane_getLsbD, word_hbxor3]

/-- The first two operands cancel when they are equal (R105). -/
theorem hbxor3_self_left (A C : HalfBlock w) : hbxor3 A A C = C :=
  halfBlock_ext fun i _ => by rw [word_hbxor3, BitVec.xor_self, BitVec.zero_xor]

/-- The adder in one lane: the carry out of position 31 is dropped (R111). -/
@[simp] theorem lane_bsadd (A B : HalfBlock w) (j : Nat) : lane (bsadd A B) j = lane A j + lane B j := by
  obtain ⟨out, -, hsum⟩ := laneSum_rippleAdd j A.toList B.toList (laneZero w) (by simp)
  have hlt := (lane (bsadd A B) j).isLt
  apply BitVec.eq_of_toNat_eq
  rw [BitVec.toNat_add]
  simp only [lane_toNat, toList_bsadd, Vector.length_toList, laneZero, BitVec.getLsbD_zero, Bool.toNat_false] at hsum hlt ⊢
  omega

/-- The subtractor in one lane, from the addition it undoes: the borrow out of position 31 is dropped (R113). -/
@[simp] theorem lane_bssub (A B : HalfBlock w) {j : Nat} (hj : j < w) : lane (bssub A B) j = lane A j - lane B j := by
  obtain ⟨out, -, hsum⟩ := laneSum_rippleSub j hj A.toList B.toList (laneZero w) (by simp)
  have hlt := (lane A j).isLt
  refine BitVec.eq_sub_iff_add_eq.mpr (BitVec.eq_of_toNat_eq ?_)
  rw [BitVec.toNat_add]
  simp only [lane_toNat, toList_bssub, Vector.length_toList, laneZero, BitVec.getLsbD_zero, Bool.toNat_false] at hsum hlt ⊢
  omega

/-- The left shifter in one lane, for every amount (R122). -/
@[simp] theorem lane_bsshl (H : HalfBlock w) (s j : Nat) : lane (bsshl H s) j = lane H j <<< s := by
  refine BitVec.eq_of_getLsbD_eq fun i hi => ?_
  rw [lane_getLsbD, word_bsshl H s hi, BitVec.getLsbD_shiftLeft, lane_getLsbD]
  by_cases h : s ≤ i
  · simp [h, hi]
  · simp [h, laneZero]

/-- The right shifter in one lane, for every amount (R122). -/
@[simp] theorem lane_bsshr (H : HalfBlock w) (s j : Nat) : lane (bsshr H s) j = lane H j >>> s := by
  refine BitVec.eq_of_getLsbD_eq fun i hi => ?_
  rw [lane_getLsbD, word_bsshr H s hi, BitVec.getLsbD_ushiftRight, lane_getLsbD, Nat.add_comm s i]
  by_cases h : i < 32 - s
  · rw [if_pos h]
  · rw [if_neg h, word_of_ge H (by omega), laneZero]

/-- The injector puts the constant into every lane (R132). -/
@[simp] theorem lane_bsconst (x : Scalar) {j : Nat} (hj : j < w) : lane (bsconst w x) j = x := by
  refine BitVec.eq_of_getLsbD_eq fun i hi => ?_
  rw [lane_getLsbD, word_bsconst x hi, bcast_getLsbD x i hj]

/-! ### One lane of the rounds and of a run -/

/-- `MIX` in one lane (R137): the shifts are TEA's multiplication by 16 and division by 32. -/
@[simp] theorem lane_mix (v ka kb : HalfBlock w) (x : Scalar) {j : Nat} (hj : j < w) :
    lane (mix v ka kb x) j = teaMix (lane v j) (lane ka j) (lane kb j) x := by
  have hl : lane v j <<< Config.shiftLeft = lane v j * 16#32 := BitVec.shiftLeft_eq_mul_twoPow ..
  have hr : lane v j >>> Config.shiftRight = lane v j / 32#32 :=
    BitVec.eq_of_toNat_eq (by simp [Config.shiftRight, Nat.shiftRight_eq_div_pow])
  rw [mix, lane_hbxor3, lane_bsadd, lane_bsadd, lane_bsadd, lane_bsshl, lane_bsshr, lane_bsconst x hj, hl, hr, teaMix]

/-- The forward round in one lane (R142). -/
theorem laneView_fround (v0 v1 k0 k1 k2 k3 : HalfBlock w) (sum : Scalar) {j : Nat} (hj : j < w) :
    (fround v0 v1 k0 k1 k2 k3 sum).laneView j =
      teaForward (lane k0 j) (lane k1 j) (lane k2 j) (lane k3 j) ⟨lane v0 j, lane v1 j, sum⟩ := by
  simp only [fround, RoundState.laneView, teaForward, lane_bsadd, lane_mix _ _ _ _ hj, Config.delta]

/-- The inverse round in one lane (R142). -/
theorem laneView_iround (v0 v1 k0 k1 k2 k3 : HalfBlock w) (sum : Scalar) {j : Nat} (hj : j < w) :
    (iround v0 v1 k0 k1 k2 k3 sum).laneView j =
      teaInverse (lane k0 j) (lane k1 j) (lane k2 j) (lane k3 j) ⟨lane v0 j, lane v1 j, sum⟩ := by
  simp only [iround, RoundState.laneView, teaInverse, lane_bssub _ _ hj, lane_mix _ _ _ _ hj, Config.delta]

/-- A sequence of forward rounds in one lane. -/
theorem laneView_forwardRounds (k0 k1 k2 k3 : HalfBlock w) (r : Nat) (b : RoundState w) {j : Nat} (hj : j < w) :
    (forwardRounds k0 k1 k2 k3 r b).laneView j =
      (teaForward (lane k0 j) (lane k1 j) (lane k2 j) (lane k3 j))^[r] (b.laneView j) := by
  induction r generalizing b with
  | zero => rfl
  | succ n ih => rw [forwardRounds, ih, laneView_fround _ _ _ _ _ _ _ hj, Function.iterate_succ_apply, RoundState.laneView]

/-- A sequence of inverse rounds in one lane. -/
theorem laneView_inverseRounds (k0 k1 k2 k3 : HalfBlock w) (r : Nat) (b : RoundState w) {j : Nat} (hj : j < w) :
    (inverseRounds k0 k1 k2 k3 r b).laneView j =
      (teaInverse (lane k0 j) (lane k1 j) (lane k2 j) (lane k3 j))^[r] (b.laneView j) := by
  induction r generalizing b with
  | zero => rfl
  | succ n ih => rw [inverseRounds, ih, laneView_iround _ _ _ _ _ _ _ hj, Function.iterate_succ_apply, RoundState.laneView]

/-- The accumulator a decryption starts from is the one of word-level TEA (R151, R157). -/
theorem deltaTimes_eq_ofNat (r : Nat) : deltaTimes r = BitVec.ofNat 32 (0x9e3779b9 * r) := (BitVec.ofNat_mul ..).symm

/-- `ENC` in one lane (R157). -/
theorem laneView_encRun (v0 v1 k0 k1 k2 k3 : HalfBlock w) (r : Nat) {j : Nat} (hj : j < w) :
    (encRun v0 v1 k0 k1 k2 k3 r).laneView j =
      teaEncrypt (lane k0 j) (lane k1 j) (lane k2 j) (lane k3 j) (lane v0 j) (lane v1 j) r :=
  laneView_forwardRounds k0 k1 k2 k3 r _ hj

/-- `DEC` in one lane (R157). -/
theorem laneView_decRun (v0 v1 k0 k1 k2 k3 : HalfBlock w) (r : Nat) {j : Nat} (hj : j < w) :
    (decRun v0 v1 k0 k1 k2 k3 r).laneView j =
      teaDecrypt (lane k0 j) (lane k1 j) (lane k2 j) (lane k3 j) (lane v0 j) (lane v1 j) r := by
  rw [decRun, laneView_inverseRounds _ _ _ _ _ _ hj, RoundState.laneView, deltaTimes_eq_ofNat, teaDecrypt]

end Sys2Proof

namespace Sys2Proof.Machine

variable {w : Nat}

/-! ### The engine step, case by case -/

theorem engineStep_completion {e : Engine w} (hb : e.busy = true) (hr : e.rcnt = 0#32) : e.engineStep = e.endFlags := by
  simp only [Engine.engineStep, hb, hr, if_true]

theorem engineStep_forward {e : Engine w} (hb : e.busy = true) (hr : e.rcnt ≠ 0#32) (hd : e.dir = false) :
    e.engineStep = e.forwardStep := by
  simp [Engine.engineStep, hb, hr, hd]

theorem engineStep_inverse {e : Engine w} (hb : e.busy = true) (hr : e.rcnt ≠ 0#32) (hd : e.dir = true) :
    e.engineStep = e.inverseStep := by
  simp [Engine.engineStep, hb, hr, hd]

/-! ### Every operation keeps equal public parts equal (R108) -/

section PublicEq

variable {e e' : Engine w} (h : e.PublicEq e')
include h

theorem faulted_publicEq (c : BitVec 4) : (e.faulted c).PublicEq (e'.faulted c) := by
  obtain ⟨hs, hr, hro, hb, hd, hdir, he, hc⟩ := h
  exact ⟨hs, hr, hro, hb, hd, hdir, rfl, by simp only [Engine.faulted_ecode, he, hc]⟩

/-- Even where the two write different lane words, or different values. -/
theorem writeLane_publicEq_writeLane (n n' : HalfName) (i i' : Fin 32) (x x' : LaneWord w) :
    (e.writeLane n i x).PublicEq (e'.writeLane n' i' x') := by
  simpa [Engine.PublicEq] using h

theorem writeRounds_publicEq (r : Scalar) : (e.writeRounds r).PublicEq (e'.writeRounds r) := by
  obtain ⟨hs, hr, -, hrest⟩ := h
  exact ⟨hs, hr, rfl, hrest⟩

/-- Acceptance reads `ROUNDS`, and no operand (R150, R151). -/
theorem accept_publicEq (i : Instr) : (e.accept i).PublicEq (e'.accept i) := by
  obtain ⟨-, -, hro, -, -, -, he, hc⟩ := h
  cases i <;> simp [Engine.PublicEq, Engine.accept, hro, he, hc]

theorem endFlags_publicEq : e.endFlags.PublicEq e'.endFlags := by
  obtain ⟨hs, hr, hro, -, -, hrest⟩ := h
  exact ⟨hs, hr, hro, rfl, rfl, hrest⟩

/-- A round's effect outside the operand store is its `SUM` and the count. -/
theorem finishRound_publicEq {b b' : RoundState w} (hsum : b.sum = b'.sum) :
    (e.finishRound b).PublicEq (e'.finishRound b') := by
  obtain ⟨-, hr, hrest⟩ := h
  exact ⟨hsum, congrArg (· - 1#32) hr, hrest⟩

/-- Which step the engine takes is public, and so is what the step does outside the operand store (R153 to R155). -/
theorem engineStep_publicEq : e.engineStep.PublicEq e'.engineStep := by
  obtain ⟨hs, hr, -, hb, -, hd, -, -⟩ := id h
  have his := engineStep_is e
  generalize e.engineStep = f at his ⊢
  cases his with
  | idle hbe =>
    rw [engineStep_idle (hb ▸ hbe)]
    exact h
  | completion hbe hre =>
    rw [engineStep_completion (hb ▸ hbe) (hr ▸ hre)]
    exact endFlags_publicEq h
  | forward hbe hre hde =>
    rw [engineStep_forward (hb ▸ hbe) (hr ▸ hre) (hd ▸ hde)]
    exact finishRound_publicEq h (congrArg (· + Config.delta) hs)
  | inverse hbe hre hde =>
    rw [engineStep_inverse (hb ▸ hbe) (hr ▸ hre) (hd ▸ hde)]
    exact finishRound_publicEq h (congrArg (· - Config.delta) hs)

end PublicEq

/-! ### Two machines that differ in their secrets only -/

/-- The machine with other contents of the engine and other values read before. -/
def State.withSecrets (s : State) (e' : Engine s.width.bits) (rd' : List (HostData s.width.bits)) : State :=
  { s with engine := e', reads := rd' }

/-- The answers `o` of the machine `s`, and `o'` of one whose host had read `rd'`, agree on everything public: the next states have
the same turns, events left and public engine state, and each host has read one value more or none, the same one unless
`secretRead`. -/
def AgreeOnPublic (s : State) (rd' : List (HostData s.width.bits)) (secretRead : Prop)
    (o o' : Host.Outcome State Fault Refusal) : Prop :=
  ∃ f f' sc sd new new',
    o = .next ⟨s.width, f, sc, sd, new ++ s.reads⟩ ∧ o' = .next ⟨s.width, f', sc, sd, new' ++ rd'⟩ ∧
    f.PublicEq f' ∧ new.length = new'.length ∧ new.length ≤ 1 ∧ (new = new' ∨ secretRead)

section TwoMachines

variable (s : State) {e' f f' : Engine s.width.bits} {rd' : List (HostData s.width.bits)} {p q : Prop}

/-- Two answers that change the engines only. -/
theorem agreeOnPublic_withEngine (h : f.PublicEq f') :
    AgreeOnPublic s rd' p (.next (s.withEngine f)) (.next ((s.withSecrets e' rd').withEngine f')) :=
  ⟨f, f', s.script, s.sched, [], [], rfl, rfl, h, rfl, Nat.zero_le 1, .inl rfl⟩

/-- Two answers by which each host has read one value. -/
theorem agreeOnPublic_answer (h : f.PublicEq f') {v v' : HostData s.width.bits} (hv : v = v' ∨ p) :
    AgreeOnPublic s rd' p (.next (s.answer f v)) (.next ((s.withSecrets e' rd').answer f' v')) :=
  ⟨f, f', s.script, s.sched, [v], [v'], rfl, rfl, h, rfl, Nat.le_refl 1, hv.imp_left (congrArg ([·]))⟩

theorem AgreeOnPublic.mono {s : State} {rd' : List (HostData s.width.bits)} {o o' : Host.Outcome State Fault Refusal}
    (h : AgreeOnPublic s rd' p o o') (hpq : p → q) : AgreeOnPublic s rd' q o o' := by
  obtain ⟨f, f', sc, sd, new, new', ho, ho', hpub, hlen, hle, hnew⟩ := h
  exact ⟨f, f', sc, sd, new, new', ho, ho', hpub, hlen, hle, hnew.imp_right hpq⟩

/-- A command word is run or rejected by its value alone; the operands do not enter (R80, R84, R152). -/
theorem command_agreeOnPublic (h : s.engine.PublicEq e') (hb : s.engine.busy = false) (c : Scalar) :
    AgreeOnPublic s rd' p (command s c) (command (s.withSecrets e' rd') c) := by
  obtain ⟨-, -, -, hbe, -⟩ := id h
  have haccept (i : Instr) : AgreeOnPublic s rd' p (exec i s) (exec i (s.withSecrets e' rd')) := by
    rw [exec_idle i s hb, exec_idle i (s.withSecrets e' rd') (hbe ▸ hb)]
    exact agreeOnPublic_withEngine s (accept_publicEq h i)
  rw [command_eq, command_eq]
  split
  · exact haccept .encrypt
  split
  · exact haccept .decrypt
  · exact agreeOnPublic_withEngine s (faulted_publicEq h _)

/-- What a host write does outside the operand store depends on the public state and the transaction only (R54). -/
theorem hostWrite_agreeOnPublic (h : s.engine.PublicEq e') (a : Address) (d : HostData s.width.bits) :
    AgreeOnPublic s rd' p (hostWrite s a d) (hostWrite (s.withSecrets e' rd') a d) := by
  obtain ⟨-, -, -, hbe, -⟩ := id h
  cases hb : s.engine.busy with
  | true =>
    rw [hostWrite_busy s a d hb, hostWrite_busy (s.withSecrets e' rd') a d (hbe ▸ hb)]
    exact agreeOnPublic_withEngine s (faulted_publicEq h _)
  | false =>
    have hb' : (s.withSecrets e' rd').engine.busy = false := hbe ▸ hb
    by_cases hhigh : 0xC2 ≤ a.toNat
    · rw [hostWrite_bad s a d hb hhigh, hostWrite_bad (s.withSecrets e' rd') a d hb' hhigh]
      exact agreeOnPublic_withEngine s (faulted_publicEq h _)
    rcases address_cases a with ⟨n, i, rfl⟩ | rfl | rfl | hother
    · rw [hostWrite_lane s n i d hb, hostWrite_lane (s.withSecrets e' rd') n i d hb']
      exact agreeOnPublic_withEngine s (writeLane_publicEq_writeLane h ..)
    · rw [hostWrite_rounds s d hb, hostWrite_rounds (s.withSecrets e' rd') d hb']
      exact agreeOnPublic_withEngine s (writeRounds_publicEq h _)
    · rw [hostWrite_cmd s d hb, hostWrite_cmd (s.withSecrets e' rd') d hb']
      exact command_agreeOnPublic s h hb _
    · refine absurd ?_ hhigh
      rcases hother with rfl | rfl | rfl | h5
      · decide
      · decide
      · decide
      · omega

/-- What a host read answers and leaves is public, but for the lane word an idle host reads (R55, R108). -/
theorem hostRead_agreeOnPublic (h : s.engine.PublicEq e') (a : Address) :
    AgreeOnPublic s rd' (s.engine.busy = false ∧ ∃ n i, a = laneAddress n i)
      (.next (hostRead s a)) (.next (hostRead (s.withSecrets e' rd') a)) := by
  obtain ⟨-, -, -, hbe, -⟩ := id h
  by_cases hsecret : s.engine.busy = false ∧ ∃ n i, a = laneAddress n i
  · obtain ⟨hb, n, i, rfl⟩ := id hsecret
    rw [hostRead_lane s n i hb, hostRead_lane (s.withSecrets e' rd') n i (hbe ▸ hb)]
    exact agreeOnPublic_answer s h (.inr hsecret)
  · have hport : s.engine.readPort a = (s.withSecrets e' rd').engine.readPort a := by
      refine readPort_of_publicEq h a ?_
      cases hb : s.engine.busy with
      | true => exact .inl rfl
      | false => exact .inr fun n i ha => hsecret ⟨hb, n, i, ha⟩
    cases hp : s.engine.readPort a with
    | ok v =>
      rw [hostRead_of_ok hp, hostRead_of_ok (hport.symm.trans hp)]
      exact agreeOnPublic_answer s h (.inl rfl)
    | error c =>
      rw [hostRead_of_error hp, hostRead_of_error (hport.symm.trans hp)]
      exact agreeOnPublic_answer s (faulted_publicEq h _) (.inl rfl)

/-- `POLL` reads `STATUS`, and is repeated, by public values only (R87, R108). -/
theorem pollOnce_agreeOnPublic (h : s.engine.PublicEq e') :
    AgreeOnPublic s rd' p (.next s.pollOnce) (.next (s.withSecrets e' rd').pollOnce) := by
  obtain ⟨-, -, -, hbe, -⟩ := id h
  have hstatus := status_of_publicEq h
  refine ⟨s.engine, e', s.pollOnce.script, s.sched, [zextScalar s.engine.status], [zextScalar e'.status], rfl, ?_, h, rfl,
    Nat.le_refl 1, .inl (by rw [hstatus])⟩
  rw [State.pollOnce_script, hbe]
  rfl

/-- A host event of any kind. -/
theorem hostEvent_agreeOnPublic (h : s.engine.PublicEq e') (ev : HostEvent s.width.bits) :
    AgreeOnPublic s rd' (s.engine.busy = false ∧ ∃ n i, ev = .read (laneAddress n i))
      (hostEvent s ev) (hostEvent (s.withSecrets e' rd') ev) := by
  cases ev with
  | write a d => exact hostWrite_agreeOnPublic s h a d
  | read a =>
    refine (hostRead_agreeOnPublic s h a).mono ?_
    rintro ⟨hb, n, i, rfl⟩
    exact ⟨hb, n, i, rfl⟩
  | poll => exact pollOnce_agreeOnPublic s h
  | reset => exact agreeOnPublic_withEngine s (by simp [Engine.PublicEq])

/-- Whose turn it is depends on the turns prescribed and on `BUSY` (R199). -/
theorem withSecrets_nextAgent (hb : s.engine.busy = e'.busy) : (s.withSecrets e' rd').nextAgent = s.nextAgent := by
  cases hs : s.sched with
  | cons a rest => rw [nextAgent_of_sched_cons hs, nextAgent_of_sched_cons (s := s.withSecrets e' rd') hs]
  | nil =>
    rw [nextAgent_of_sched_nil hs, nextAgent_of_sched_nil (s := s.withSecrets e' rd') hs, hb]
    rfl

/-- A step of either agent. -/
theorem step_agreeOnPublic (h : s.engine.PublicEq e') :
    AgreeOnPublic s rd' (s.engine.busy = false ∧ ∃ n i, s.HostDoes (.read (laneAddress n i)))
      (step s) (step (s.withSecrets e' rd')) := by
  obtain ⟨-, -, -, hbe, -⟩ := id h
  have hagent := withSecrets_nextAgent s (rd' := rd') hbe
  rw [step, step]
  cases ha : s.nextAgent with
  | engine =>
    rw [takeTurn_engine s ha, takeTurn_engine _ (hagent.trans ha)]
    exact agreeOnPublic_withEngine s.dropTurn (e' := e') (engineStep_publicEq h)
  | host =>
    cases hs : s.script with
    | nil =>
      rw [takeTurn_host_idle s ha hs, takeTurn_host_idle _ (hagent.trans ha) hs]
      exact agreeOnPublic_withEngine s.dropTurn (e' := e') h
    | cons ev rest =>
      have hev : s.script.head? = some ev := by rw [hs, List.head?_cons]
      rw [takeTurn_host s ev ⟨ha, hev⟩, takeTurn_host (s.withSecrets e' rd') ev ⟨hagent.trans ha, hev⟩]
      refine (hostEvent_agreeOnPublic s.afterEvent h ev).mono ?_
      rintro ⟨hb, n, i, rfl⟩
      exact ⟨hb, n, i, ha, hev⟩

end TwoMachines

end Sys2Proof.Machine

open Sys2Proof Sys2Proof.Machine

/-- Settles O60: each agent's move keeps equal public parts equal, and only a read of a lane word while idle answers with data
(R108, R197). -/
theorem controlIsIndependentOfData : Obligations.ControlIsIndependentOfData :=
  fun width e _ sc sd rd _ h => step_agreeOnPublic ⟨width, e, sc, sd, rd⟩ h

/-- Settles O6: exclusive or position by position, hence bit by bit of every lane (R105). -/
theorem halfBlockXorPerLane : Obligations.HalfBlockXorPerLane := fun _ A B C =>
  ⟨fun i _ => word_hbxor3 A B C i, fun j _ => lane_hbxor3 A B C j, hbxor3_self_left A C⟩

/-- Settles O22: what a run leaves in a lane is TEA of what that lane held (R106, R157). -/
theorem lanesNeverInteract : Obligations.LanesNeverInteract := by
  intro w v0 v1 k0 k1 k2 k3 v0' v1' k0' k1' k2' k3' r j hj hv0 hv1 hk0 hk1 hk2 hk3
  simp only [laneView_encRun _ _ _ _ _ _ r hj, laneView_decRun _ _ _ _ _ _ r hj, hv0, hv1, hk0, hk1, hk2, hk3, and_self]

end

section
/-! Proofs of the adder family (41_adder_subtractor.md): the chain of carries or borrows (R110, R112), the meaning in each lane
(R111, R113), the inverse law (R115), and that no position depends on a higher one (R116). -/

namespace Sys2Proof

variable {w : Nat}

/-! ### The chain between positions -/

/-- The carry out of a position: `carry[i+1]` of R110. -/
def carryOut (a b c : LaneWord w) : LaneWord w := (a &&& b) ||| (c &&& (a ^^^ b))

/-- The borrow out of a position: `borrow[i+1]` of R112. -/
def borrowOut (a b c : LaneWord w) : LaneWord w := (~~~a &&& b) ||| (~~~a &&& c) ||| (b &&& c)

/-- The lane words that ripple from position to position: `c` into position 0, and out of each position what `out` makes of its two
operand words and of the word that came in. -/
def rippleChain (out : LaneWord w → LaneWord w → LaneWord w → LaneWord w) (as bs : List (LaneWord w)) (c : LaneWord w) :
    Nat → LaneWord w
  | 0 => c
  | i + 1 => out (as.getD i 0#w) (bs.getD i 0#w) (rippleChain out as bs c i)

/-- The chain from position 1 upward is the chain of the tails, started with what leaves position 0. -/
theorem rippleChain_cons (out : LaneWord w → LaneWord w → LaneWord w → LaneWord w) (a b c : LaneWord w)
    (as bs : List (LaneWord w)) (i : Nat) :
    rippleChain out (a :: as) (b :: bs) c (i + 1) = rippleChain out as bs (out a b c) i := by
  induction i with
  | zero => rfl
  | succ i ih => rw [rippleChain, ih]; rfl

/-- Whatever ripples by `out` has at every position the exclusive or of its operands and of the chain: one argument for the
adder and the subtractor. -/
theorem getD_of_ripple {out : LaneWord w → LaneWord w → LaneWord w → LaneWord w}
    {f : List (LaneWord w) → List (LaneWord w) → LaneWord w → List (LaneWord w)}
    (hf : ∀ a as b bs c, f (a :: as) (b :: bs) c = (a ^^^ b ^^^ c) :: f as bs (out a b c))
    (as bs : List (LaneWord w)) (c : LaneWord w) {i : Nat} (ha : i < as.length) (hb : i < bs.length) :
    (f as bs c).getD i 0#w = as.getD i 0#w ^^^ bs.getD i 0#w ^^^ rippleChain out as bs c i := by
  induction i generalizing as bs c with
  | zero =>
    obtain ⟨a, as, rfl⟩ := List.exists_cons_of_length_pos ha
    obtain ⟨b, bs, rfl⟩ := List.exists_cons_of_length_pos hb
    rw [hf]
    rfl
  | succ i ih =>
    obtain ⟨a, as, rfl⟩ := List.exists_cons_of_length_pos (Nat.zero_lt_of_lt ha)
    obtain ⟨b, bs, rfl⟩ := List.exists_cons_of_length_pos (Nat.zero_lt_of_lt hb)
    rw [hf, rippleChain_cons]
    exact ih as bs (out a b c) (Nat.lt_of_succ_lt_succ ha) (Nat.lt_of_succ_lt_succ hb)

/-- Word `i` of the adder (R110). -/
theorem word_bsadd (A B : HalfBlock w) {i : Nat} (hi : i < 32) :
    (bsadd A B).word i = A.word i ^^^ B.word i ^^^ rippleChain carryOut A.toList B.toList (laneZero w) i :=
  getD_of_ripple (f := rippleAdd) (fun _ _ _ _ _ => rfl) _ _ _ (by simpa using hi) (by simpa using hi)

/-- Word `i` of the subtractor (R112). -/
theorem word_bssub (A B : HalfBlock w) {i : Nat} (hi : i < 32) :
    (bssub A B).word i = A.word i ^^^ B.word i ^^^ rippleChain borrowOut A.toList B.toList (laneZero w) i :=
  getD_of_ripple (f := rippleSub) (fun _ _ _ _ _ => rfl) _ _ _ (by simpa using hi) (by simpa using hi)

/-! ### The lowest positions -/

/-- Two half-blocks agree in their `n` lowest words exactly when their lists begin alike. -/
theorem take_toList_eq_iff {A B : HalfBlock w} {n : Nat} :
    A.toList.take n = B.toList.take n ↔ ∀ k, k < n → A.word k = B.word k := by
  constructor
  · intro h k hk
    have hget := congrArg (·[k]?.getD 0#w) h
    simpa only [List.getElem?_take_of_lt hk, ← List.getD_eq_getElem?_getD, HalfBlock.word] using hget
  · intro h
    refine List.ext_getElem (by simp) fun k hA hB => ?_
    obtain ⟨hk, hk32⟩ : k < n ∧ k < 32 := by simpa using hA
    simpa [word_of_lt _ hk32] using h k hk

end Sys2Proof

open Sys2Proof

/-- Settles O7: the carries are the chain of `carryOut`, started at `ZERO` (R110). -/
theorem adderRecurrence : Obligations.AdderRecurrence := fun w A B =>
  ⟨rippleChain carryOut A.toList B.toList (laneZero w), rfl, fun _ hi => ⟨word_bsadd A B hi, rfl⟩⟩

/-- Settles O9: the borrows are the chain of `borrowOut`, started at `ZERO` (R112). -/
theorem subtractorRecurrence : Obligations.SubtractorRecurrence := fun w A B =>
  ⟨rippleChain borrowOut A.toList B.toList (laneZero w), rfl, fun _ hi => ⟨word_bssub A B hi, rfl⟩⟩

/-- Settles O8: the adder in one lane is 32-bit addition (R111). -/
theorem adderAddsPerLane : Obligations.AdderAddsPerLane := by
  intro w A B j _
  rw [lane_bsadd, BitVec.toNat_add]

/-- Settles O10: the subtractor in one lane is 32-bit subtraction, and that is the remainder of the difference (R113). -/
theorem subtractorSubtractsPerLane : Obligations.SubtractorSubtractsPerLane := by
  intro w A B j hj
  have hlt := (lane B j).isLt
  rw [lane_bssub A B hj, BitVec.toNat_sub]
  omega

/-- Settles O11: addition and subtraction undo each other in every lane, and the lanes are all there is (R115). -/
theorem subtractorUndoesAdder : Obligations.SubtractorUndoesAdder := by
  intro w A B
  constructor <;> refine halfBlock_lane_ext fun j hj => ?_
  · rw [lane_bssub _ _ hj, lane_bsadd, BitVec.add_sub_cancel]
  · rw [lane_bsadd, lane_bssub _ _ hj, BitVec.sub_add_cancel]

/-- Settles O12: the lowest words of a result come from the lowest words of the operands (R116). -/
theorem positionsDependOnLowerOnes : Obligations.PositionsDependOnLowerOnes := by
  intro w A B A' B' i _ h
  have hA : A.toList.take (i + 1) = A'.toList.take (i + 1) :=
    take_toList_eq_iff.mpr fun k hk => (h k (Nat.le_of_lt_succ hk)).1
  have hB : B.toList.take (i + 1) = B'.toList.take (i + 1) :=
    take_toList_eq_iff.mpr fun k hk => (h k (Nat.le_of_lt_succ hk)).2
  constructor <;> refine take_toList_eq_iff.mp ?_ i (Nat.lt_succ_self i)
  · rw [toList_bsadd, toList_bsadd, rippleAdd_take, rippleAdd_take, hA, hB]
  · rw [toList_bssub, toList_bssub, rippleSub_take, rippleSub_take, hA, hB]

end

section
/-! Proofs of the shifter family (42_shifter.md): word by word from the laws of the datapath, and lane by lane from the 32-bit
shifts `lane_bsshl` and `lane_bsshr`, read as numbers. -/

open Sys2Proof

/-- Settles O14: the shifter in one lane is the 32-bit logical shift, and that multiplies or divides by `2 ^ s` (R122). -/
theorem shifterShiftsPerLane : Obligations.ShifterShiftsPerLane := by
  intro w H s j _ _
  constructor
  · rw [lane_bsshl, BitVec.toNat_shiftLeft, Nat.shiftLeft_eq]
  · rw [lane_bsshr, BitVec.toNat_ushiftRight, Nat.shiftRight_eq_div_pow]

/-- Settles O13: the word laws of the two shifters (R120, R121). -/
theorem shifterMovesPositions : Obligations.ShifterMovesPositions := fun _ H s _ hi =>
  ⟨word_bsshl H s hi, word_bsshr H s hi⟩

end

section
/-! Proofs of the injector family (43_constant_injector.md): word by word the injector broadcasts a bit (R130, R131), and it holds
the constant in every lane (R132), as `splat` does (R13). -/

namespace Sys2Proof

variable {w : Nat}

/-- `splat` holds its value in every lane (R13). -/
@[simp] theorem lane_splat (x : BitVec 32) {j : Nat} (hj : j < w) : lane (splat x : HalfBlock w) j = x := by
  rw [splat, lane_pack _ hj, List.getD_replicate x hj]

/-- The injector is `splat`: both hold the constant in every lane, and the lanes are all there is (R132). -/
theorem bsconst_eq_splat (w : Nat) (x : Scalar) : bsconst w x = splat x :=
  halfBlock_lane_ext fun _ hj => (lane_bsconst x hj).trans (lane_splat x hj).symm

end Sys2Proof

open Sys2Proof

/-- Settles O15: word `i` is the broadcast of bit `i` (R130, R131), and every lane holds the constant (R132). -/
theorem injectorPerLane : Obligations.InjectorPerLane := fun w x =>
  ⟨fun _ hi => word_bsconst x hi, bsconst_eq_splat w x, fun _ hj => lane_bsconst x hj⟩

end

section
/-! Proofs of the round function family (44_round_function.md): the rounds lane by lane are the laws of the lane family (R137,
R142); the two rounds undo each other because `MIX` is recomputed from a half that is already known, never undone (R138, R143). -/

namespace Sys2Proof

variable {w : Nat}

/-! ### The adder and the subtractor as rewrite rules (R115) -/

@[simp] theorem bssub_bsadd (A B : HalfBlock w) : bssub (bsadd A B) B = A := (subtractorUndoesAdder w A B).1

@[simp] theorem bsadd_bssub (A B : HalfBlock w) : bsadd (bssub A B) B = A := (subtractorUndoesAdder w A B).2

/-! ### The rounds undo each other (R143) -/

/-- The inverse round recomputes the mixing value added to `v1`, and with `v1` restored the one added to `v0`. -/
theorem iround_fround (v0 v1 k0 k1 k2 k3 : HalfBlock w) (sum : Scalar) :
    iround (fround v0 v1 k0 k1 k2 k3 sum).v0 (fround v0 v1 k0 k1 k2 k3 sum).v1 k0 k1 k2 k3
      (fround v0 v1 k0 k1 k2 k3 sum).sum = ⟨v0, v1, sum⟩ := by
  simp only [fround, iround, bssub_bsadd, BitVec.add_sub_cancel]

/-- The forward round first brings the accumulator back, and so recomputes the two mixing values subtracted. -/
theorem fround_iround (v0 v1 k0 k1 k2 k3 : HalfBlock w) (sum : Scalar) :
    fround (iround v0 v1 k0 k1 k2 k3 sum).v0 (iround v0 v1 k0 k1 k2 k3 sum).v1 k0 k1 k2 k3
      (iround v0 v1 k0 k1 k2 k3 sum).sum = ⟨v0, v1, sum⟩ := by
  simp only [fround, iround, BitVec.sub_add_cancel, bsadd_bssub]

end Sys2Proof

open Sys2Proof

/-- Settles O16: `lane_mix`, from the lane laws of the shifter, the adder, the injector and `HBXOR3` (R137). -/
theorem mixPerLane : Obligations.MixPerLane := fun _ v ka kb x _ hj => lane_mix v ka kb x hj

/-- Settles O17: each round in one lane, from `lane_mix` and the lane laws of the adder and the subtractor (R142). -/
theorem roundsPerLane : Obligations.RoundsPerLane := fun _ v0 v1 k0 k1 k2 k3 sum _ hj =>
  ⟨laneView_fround v0 v1 k0 k1 k2 k3 sum hj, laneView_iround v0 v1 k0 k1 k2 k3 sum hj⟩

/-- Settles O18: either round applied to what the other computed (R143). -/
theorem inverseRoundInvertsForwardRound : Obligations.InverseRoundInvertsForwardRound := by
  intro w v0 v1 k0 k1 k2 k3 sum
  constructor <;> intro a b s h
  · simpa only [h] using iround_fround v0 v1 k0 k1 k2 k3 sum
  · simpa only [h] using fround_iround v0 v1 k0 k1 k2 k3 sum

end

section
/-! Proofs of the transform driver family (45_transform_driver.md): the acceptance of the commands (R150 to R152), the engine's own
steps (R153 to R155), and a whole run, which is the command's round iterated `ROUNDS` times (R156 to R160, R163, R164). -/

namespace Sys2Proof

variable {w : Nat}

/-! ### A run as one round iterated (R156) -/

/-- The round of a command's direction, as a function of the block and the accumulator (R139, R141). -/
def commandRound (k0 k1 k2 k3 : HalfBlock w) : Instr → RoundState w → RoundState w
  | .encrypt, b => fround b.v0 b.v1 k0 k1 k2 k3 b.sum
  | .decrypt, b => iround b.v0 b.v1 k0 k1 k2 k3 b.sum

section Rounds

variable (k0 k1 k2 k3 : HalfBlock w)

theorem forwardRounds_eq_iterate (n : Nat) (b : RoundState w) :
    forwardRounds k0 k1 k2 k3 n b = (commandRound k0 k1 k2 k3 .encrypt)^[n] b := by
  induction n generalizing b with
  | zero => rfl
  | succ n ih => rw [forwardRounds, ih, Function.iterate_succ_apply, commandRound]

theorem inverseRounds_eq_iterate (n : Nat) (b : RoundState w) :
    inverseRounds k0 k1 k2 k3 n b = (commandRound k0 k1 k2 k3 .decrypt)^[n] b := by
  induction n generalizing b with
  | zero => rfl
  | succ n ih => rw [inverseRounds, ih, Function.iterate_succ_apply, commandRound]

/-- Inverse rounds take forward rounds back (R143). -/
theorem inverseRounds_forwardRounds (n : Nat) (b : RoundState w) :
    inverseRounds k0 k1 k2 k3 n (forwardRounds k0 k1 k2 k3 n b) = b := by
  have hround : Function.LeftInverse (commandRound k0 k1 k2 k3 .decrypt) (commandRound k0 k1 k2 k3 .encrypt) :=
    fun b => iround_fround b.v0 b.v1 k0 k1 k2 k3 b.sum
  rw [forwardRounds_eq_iterate, inverseRounds_eq_iterate, hround.iterate n b]

/-- Forward rounds take inverse rounds back (R143). -/
theorem forwardRounds_inverseRounds (n : Nat) (b : RoundState w) :
    forwardRounds k0 k1 k2 k3 n (inverseRounds k0 k1 k2 k3 n b) = b := by
  have hround : Function.LeftInverse (commandRound k0 k1 k2 k3 .encrypt) (commandRound k0 k1 k2 k3 .decrypt) :=
    fun b => fround_iround b.v0 b.v1 k0 k1 k2 k3 b.sum
  rw [inverseRounds_eq_iterate, forwardRounds_eq_iterate, hround.iterate n b]

/-! ### The accumulator (R159) -/

theorem deltaTimes_succ (n : Nat) : deltaTimes (n + 1) = Config.delta + deltaTimes n := by
  rw [deltaTimes, BitVec.ofNat_add, BitVec.mul_add, BitVec.mul_one, BitVec.add_comm, deltaTimes]

/-- Each forward round adds `DELTA`. -/
theorem forwardRounds_sum (n : Nat) (b : RoundState w) :
    (forwardRounds k0 k1 k2 k3 n b).sum = b.sum + deltaTimes n := by
  induction n generalizing b with
  | zero => simp [forwardRounds, deltaTimes]
  | succ n ih => rw [forwardRounds, ih, fround, BitVec.add_assoc, deltaTimes_succ]

/-- Inverse rounds take away what the forward rounds that undo them would add. -/
theorem inverseRounds_sum (n : Nat) (b : RoundState w) :
    (inverseRounds k0 k1 k2 k3 n b).sum = b.sum - deltaTimes n := by
  have h := forwardRounds_sum k0 k1 k2 k3 n (inverseRounds k0 k1 k2 k3 n b)
  rw [forwardRounds_inverseRounds] at h
  rw [h, BitVec.add_sub_cancel]

variable (v0 v1 : HalfBlock w) (r : Nat)

theorem encRun_sum : (encRun v0 v1 k0 k1 k2 k3 r).sum = deltaTimes r := by
  rw [encRun, forwardRounds_sum, BitVec.zero_add]

theorem decRun_sum : (decRun v0 v1 k0 k1 k2 k3 r).sum = 0#32 := by
  rw [decRun, inverseRounds_sum, BitVec.sub_self]

/-! ### The round trip (R158) -/

/-- `DEC` starts from the accumulator that `ENC` leaves. -/
theorem decRun_encRun :
    decRun (encRun v0 v1 k0 k1 k2 k3 r).v0 (encRun v0 v1 k0 k1 k2 k3 r).v1 k0 k1 k2 k3 r = ⟨v0, v1, 0#32⟩ := by
  rw [decRun, ← encRun_sum k0 k1 k2 k3 v0 v1]
  exact inverseRounds_forwardRounds k0 k1 k2 k3 r ⟨v0, v1, 0#32⟩

/-- `ENC` starts from the accumulator that `DEC` leaves. -/
theorem encRun_decRun :
    encRun (decRun v0 v1 k0 k1 k2 k3 r).v0 (decRun v0 v1 k0 k1 k2 k3 r).v1 k0 k1 k2 k3 r = ⟨v0, v1, deltaTimes r⟩ := by
  rw [encRun, ← decRun_sum k0 k1 k2 k3 v0 v1 r]
  exact forwardRounds_inverseRounds k0 k1 k2 k3 r ⟨v0, v1, deltaTimes r⟩

end Rounds

end Sys2Proof

namespace Sys2Proof.Machine

variable {w : Nat}

/-! ### Acceptance -/

@[simp] theorem Engine.accept_dir (e : Engine w) (i : Instr) : (e.accept i).dir = (i == .decrypt) := by cases i <;> rfl

/-- The accumulator a `DECRYPT` run starts from, by the number of its rounds (R151). -/
theorem delta_mul_eq_deltaTimes (x : Scalar) : Config.delta * x = deltaTimes x.toNat := by
  rw [deltaTimes, BitVec.ofNat_toNat, BitVec.setWidth_eq]

/-! ### The engine during a run -/

/-- A round step of either direction (R153, R154). -/
theorem engineStep_round {e : Engine w} {i : Instr} (hb : e.busy = true) (hr : e.rcnt ≠ 0#32)
    (hd : e.dir = (i == .decrypt)) :
    e.engineStep = e.finishRound (commandRound e.k0 e.k1 e.k2 e.k3 i ⟨e.v0, e.v1, e.sum⟩) := by
  cases i with
  | encrypt => exact engineStep_forward hb hr hd
  | decrypt => exact engineStep_inverse hb hr hd

/-- What `k` rounds of a command's direction make of an engine's block and accumulator. -/
def Engine.blockAfter (e : Engine w) (i : Instr) (k : Nat) : RoundState w :=
  (commandRound e.k0 e.k1 e.k2 e.k3 i)^[k] ⟨e.v0, e.v1, e.sum⟩

/-- The engine `k` rounds further in a run: the block and the accumulator moved on, `k` rounds counted off, nothing else. -/
def Engine.afterRounds (e : Engine w) (i : Instr) (k : Nat) : Engine w :=
  { e with
    v0 := (e.blockAfter i k).v0
    v1 := (e.blockAfter i k).v1
    sum := (e.blockAfter i k).sum
    rcnt := e.rcnt - BitVec.ofNat 32 k }

theorem afterRounds_rcnt_toNat (e : Engine w) (i : Instr) {k : Nat} (hk : k ≤ e.rcnt.toNat) :
    (e.afterRounds i k).rcnt.toNat = e.rcnt.toNat - k := by
  have hlt := e.rcnt.isLt
  simp only [Engine.afterRounds, BitVec.toNat_sub, BitVec.toNat_ofNat]
  omega

theorem afterRounds_succ (e : Engine w) (i : Instr) (k : Nat) :
    e.afterRounds i (k + 1) =
      (e.afterRounds i k).finishRound (commandRound e.k0 e.k1 e.k2 e.k3 i (e.blockAfter i k)) := by
  have hblock : e.blockAfter i (k + 1) = commandRound e.k0 e.k1 e.k2 e.k3 i (e.blockAfter i k) :=
    Function.iterate_succ_apply' ..
  have hrcnt : e.rcnt - BitVec.ofNat 32 (k + 1) = e.rcnt - BitVec.ofNat 32 k - 1#32 := by
    rw [BitVec.ofNat_add, sub_add_eq_sub_sub]
  rw [Engine.afterRounds, hblock, hrcnt]
  rfl

/-- As long as rounds are left, each engine step of a run is a round (R156). -/
theorem engineStep_iterate {e : Engine w} {i : Instr} (hb : e.busy = true) (hd : e.dir = (i == .decrypt)) {k : Nat}
    (hk : k ≤ e.rcnt.toNat) : Engine.engineStep^[k] e = e.afterRounds i k := by
  induction k with
  | zero => simp [Engine.afterRounds, Engine.blockAfter]
  | succ k ih =>
    have hr : (e.afterRounds i k).rcnt ≠ 0#32 := by
      intro h0
      have hleft := afterRounds_rcnt_toNat e i (Nat.le_of_succ_le hk)
      rw [h0, BitVec.toNat_ofNat] at hleft
      omega
    rw [Function.iterate_succ_apply', ih (Nat.le_of_succ_le hk), afterRounds_succ]
    exact engineStep_round (e := e.afterRounds i k) hb hr hd

/-- The rounds counted at acceptance make `ENC` or `DEC` (R156). -/
theorem accept_blockAfter (e : Engine w) (i : Instr) :
    (e.accept i).blockAfter i e.rounds.toNat = e.bigStep e.rounds.toNat i := by
  cases i with
  | encrypt => exact (forwardRounds_eq_iterate ..).symm
  | decrypt =>
    rw [Engine.bigStep, decRun, inverseRounds_eq_iterate, ← delta_mul_eq_deltaTimes]
    rfl

/-- Completion after the rounds counted at acceptance. -/
theorem accept_afterRounds_endFlags (e : Engine w) (i : Instr) :
    ((e.accept i).afterRounds i e.rounds.toNat).endFlags = e.afterRun i := by
  have hrcnt : e.rounds - BitVec.ofNat 32 e.rounds.toNat = 0#32 := by
    rw [BitVec.ofNat_toNat, BitVec.setWidth_eq, BitVec.sub_self]
  rw [Engine.afterRounds, accept_blockAfter, Engine.accept_rcnt, hrcnt, Engine.afterRun]
  cases i <;> rfl

/-- The engine on its way through a run. -/
theorem accept_iterate (e : Engine w) (i : Instr) {k : Nat} (hk : k ≤ e.rounds.toNat) :
    Engine.engineStep^[k] (e.accept i) = (e.accept i).afterRounds i k :=
  engineStep_iterate (e.accept_busy i) (e.accept_dir i) (by rwa [Engine.accept_rcnt])

theorem accept_iterate_busy (e : Engine w) (i : Instr) {k : Nat} (hk : k ≤ e.rounds.toNat) :
    (Engine.engineStep^[k] (e.accept i)).busy = true := by
  rw [accept_iterate e i hk]
  exact e.accept_busy i

theorem accept_iterate_rcnt (e : Engine w) (i : Instr) {k : Nat} (hk : k ≤ e.rounds.toNat) :
    (Engine.engineStep^[k] (e.accept i)).rcnt.toNat = e.rounds.toNat - k := by
  rw [accept_iterate e i hk, afterRounds_rcnt_toNat _ _ (by rwa [Engine.accept_rcnt]), Engine.accept_rcnt]

/-- A whole run: `ROUNDS` rounds, and a completion when none is left (R156). -/
theorem accept_iterate_run (e : Engine w) (i : Instr) :
    Engine.engineStep^[e.rounds.toNat + 1] (e.accept i) = e.afterRun i := by
  have hb := accept_iterate_busy e i (Nat.le_refl _)
  have hr : (Engine.engineStep^[e.rounds.toNat] (e.accept i)).rcnt = 0#32 :=
    BitVec.eq_of_toNat_eq (by rw [accept_iterate_rcnt e i (Nat.le_refl _), Nat.sub_self]; rfl)
  rw [Function.iterate_succ_apply', engineStep_completion hb hr, accept_iterate e i (Nat.le_refl _),
    accept_afterRounds_endFlags]

/-- A run of no rounds computes the block it was given (R160). -/
theorem bigStep_zero (e : Engine w) (i : Instr) : e.bigStep 0 i = ⟨e.v0, e.v1, 0#32⟩ := by
  cases i <;> rfl

/-! ### The machine during a run -/

/-- With no turn prescribed a busy engine moves (log entry 5). -/
theorem step_withEngine_of_busy {s : State} {e : Engine s.width.bits} (hs : s.sched = []) (hb : e.busy = true) :
    step (s.withEngine e) = .next (s.withEngine e.engineStep) := by
  have hagent : (s.withEngine e).nextAgent = .engine := by
    rw [nextAgent_of_sched_nil (s := s.withEngine e) hs, State.withEngine_engine, if_pos hb]
  have htail : (s.withEngine e).sched.tail = s.sched := by rw [State.withEngine_sched, hs, List.tail_nil]
  rw [step, takeTurn_engine _ hagent, htail]
  rfl

/-- Steps of the machine are steps of the engine for as long as it stays busy. -/
theorem core_run_withEngine_of_busy {s : State} (hs : s.sched = []) {n : Nat} {e : Engine s.width.bits}
    (hb : ∀ k, k < n → (Engine.engineStep^[k] e).busy = true) :
    core.run n (s.withEngine e) = .next (s.withEngine (Engine.engineStep^[n] e)) := by
  induction n generalizing e with
  | zero => rfl
  | succ n ih =>
    have hstep : step (s.withEngine e) = .next (s.withEngine e.engineStep) :=
      step_withEngine_of_busy hs (hb 0 (Nat.succ_pos n))
    rw [core_run_succ _ _ _ hstep, Function.iterate_succ_apply]
    exact ih fun k hk => hb (k + 1) (Nat.succ_lt_succ hk)

/-! ### Progress of a run (R163) -/

theorem stepsLeft_of_busy {e : Engine w} (hb : e.busy = true) : e.stepsLeft = e.rcnt.toNat + 1 := by
  rw [Engine.stepsLeft, if_pos hb]

/-- Counting off a round takes one from the steps left. -/
theorem finishRound_stepsLeft {e : Engine w} (b : RoundState w) (hb : e.busy = true) (hr : e.rcnt ≠ 0#32) :
    (e.finishRound b).stepsLeft + 1 = e.stepsLeft := by
  have hpos : e.rcnt.toNat ≠ 0 := fun h => hr (BitVec.eq_of_toNat_eq h)
  have hlt := e.rcnt.isLt
  rw [stepsLeft_of_busy hb, stepsLeft_of_busy (e := e.finishRound b) hb, Engine.finishRound_rcnt, BitVec.toNat_sub,
    BitVec.toNat_ofNat]
  omega

theorem engineStep_stepsLeft {e : Engine w} (hb : e.busy = true) : e.engineStep.stepsLeft + 1 = e.stepsLeft := by
  have his := engineStep_is e
  generalize e.engineStep = e' at his ⊢
  cases his with
  | idle hidle => simp [hb] at hidle
  | completion _ hr => simp [Engine.stepsLeft, hb, hr]
  | forward _ hr => exact finishRound_stepsLeft _ hb hr
  | inverse _ hr => exact finishRound_stepsLeft _ hb hr

/-- During a run a host event but a reset changes the fault fields at most (R57). -/
theorem eventEffect_of_busy {e e' : Engine w} {ev : HostEvent w} (he : EventEffect e ev e') (hb : e.busy = true)
    (hev : ev ≠ .reset) : e' = e ∨ e' = e.faulted 2#4 := by
  cases he with
  | nothing => exact .inl rfl
  | reset h => exact absurd h hev
  | busyWrite | busyRead => exact .inr rfl
  | illegal hidle | badWrite hidle | badRead hidle | lane hidle | rounds hidle | accepted hidle => simp [hb] at hidle

/-! ### `DONE` (R164) -/

/-- The engine's own steps never clear `DONE`. -/
theorem engineStep_done {e : Engine w} (hd : e.done = true) : e.engineStep.done = true := by
  have his := engineStep_is e
  generalize e.engineStep = e' at his ⊢
  cases his with
  | completion => rfl
  | idle | forward | inverse => exact hd

/-- A host event clears `DONE` only as a reset or as the acceptance of a command. -/
theorem eventEffect_done {e e' : Engine w} {ev : HostEvent w} (he : EventEffect e ev e') (hd : e.done = true)
    (hd' : e'.done = false) :
    ev = .reset ∨ (e.busy = false ∧ e'.busy = true ∧ ∃ d i, ev = .write 0xC1#8 d ∧ decode (d.setWidth 32) = .ok i) := by
  cases he with
  | reset hev => exact .inl hev
  | accepted hb d i hev hdec => exact .inr ⟨hb, e.accept_busy i, d, i, hev, hdec⟩
  | nothing | busyWrite | busyRead | illegal | badWrite | badRead | lane | rounds => simp [hd] at hd'

end Sys2Proof.Machine

open Sys2Proof Sys2Proof.Machine

/-- Settles O29: the acceptance, then the engine's steps counted one by one (R156). -/
theorem runComputesBigStep : Obligations.RunComputesBigStep := fun i s hb =>
  ⟨_, exec_idle i s hb, fun _ hk => ⟨accept_iterate_busy s.engine i hk, accept_iterate_rcnt s.engine i hk⟩,
    accept_iterate_run s.engine i⟩

/-- Settles O19: a run computes `ENC` or `DEC`, and these are TEA in every lane (R156, R157). -/
theorem runsAreTeaPerLane : Obligations.RunsAreTeaPerLane := by
  refine ⟨fun _ v0 v1 k0 k1 k2 k3 r _ hj =>
    ⟨laneView_encRun v0 v1 k0 k1 k2 k3 r hj, laneView_decRun v0 v1 k0 k1 k2 k3 r hj⟩, fun s j hb hj => ⟨?_, ?_⟩⟩
  · refine ⟨_, exec_idle .encrypt s hb, ?_⟩
    rw [accept_iterate_run]
    exact laneView_encRun _ _ _ _ _ _ _ hj
  · refine ⟨_, exec_idle .decrypt s hb, ?_⟩
    rw [accept_iterate_run]
    exact laneView_decRun _ _ _ _ _ _ _ hj

/-- Settles O20: each run starts from the accumulator the other leaves; the first run leaves an idle engine with the same `ROUNDS`
and subkeys (R158). -/
theorem decryptionUndoesEncryption : Obligations.DecryptionUndoesEncryption := by
  refine ⟨fun w v0 v1 k0 k1 k2 k3 r => ⟨fun a b s h => ?_, fun a b s h => ?_⟩, fun s hb => ?_⟩
  · simpa only [h] using decRun_encRun k0 k1 k2 k3 v0 v1 r
  · simpa only [h, deltaTimes_eq_ofNat] using encRun_decRun k0 k1 k2 k3 v0 v1 r
  · have hback : (s.engine.afterRun .encrypt).bigStep s.engine.rounds.toNat .decrypt =
        ⟨s.engine.v0, s.engine.v1, 0#32⟩ := decRun_encRun ..
    have hrun : Engine.engineStep^[s.engine.rounds.toNat + 1] ((s.engine.afterRun .encrypt).accept .decrypt) =
        (s.engine.afterRun .encrypt).afterRun .decrypt := accept_iterate_run (s.engine.afterRun .encrypt) .decrypt
    refine ⟨_, (s.engine.afterRun .encrypt).accept .decrypt, exec_idle .encrypt s hb, ?_, ?_, ?_⟩
    · rw [accept_iterate_run]
      exact exec_idle .decrypt (s.withEngine (s.engine.afterRun .encrypt)) rfl
    · rw [hrun]
      exact congrArg RoundState.v0 hback
    · rw [hrun]
      exact congrArg RoundState.v1 hback

/-- Settles O21: the accumulator after `r` forward rounds from 0 and after `r` inverse rounds from `DELTA * r` (R159). -/
theorem accumulatorSymmetry : Obligations.AccumulatorSymmetry := fun _ v0 v1 k0 k1 k2 k3 r =>
  ⟨(encRun_sum k0 k1 k2 k3 v0 v1 r).trans (deltaTimes_eq_ofNat r), decRun_sum k0 k1 k2 k3 v0 v1 r,
    (encRun_sum k0 k1 k2 k3 v0 v1 32).trans (by decide)⟩

/-- Settles O30: the placed word is accepted, and the engine then moves until it is no longer busy (R156, R163). -/
theorem placedCommandRunsToCompletion : Obligations.PlacedCommandRunsToCompletion := by
  intro i s hb hs
  have haccept : step (s.withFetchWord 32 (encode i).toNat) = .next (s.withEngine (s.engine.accept i)) :=
    (encodedCommandRuns i s).trans (exec_idle i s hb)
  have hbusy : ∀ k, k < s.engine.rounds.toNat + 1 → (Engine.engineStep^[k] (s.engine.accept i)).busy = true :=
    fun k hk => accept_iterate_busy s.engine i (Nat.le_of_lt_succ hk)
  rw [core_run_succ _ _ _ haccept, core_run_withEngine_of_busy hs hbusy, accept_iterate_run]

/-- Settles O31: the run of O29 with no rounds (R160). -/
theorem zeroRoundsChangeNothing : Obligations.ZeroRoundsChangeNothing := by
  intro i s hb hr
  refine ⟨_, exec_idle i s hb, s.engine.accept_busy i, ?_⟩
  calc (s.engine.accept i).engineStep
    _ = Engine.engineStep^[s.engine.rounds.toNat + 1] (s.engine.accept i) := by rw [hr]; rfl
    _ = s.engine.afterRun i := accept_iterate_run s.engine i
    _ = _ := by simp only [Engine.afterRun, hr, BitVec.toNat_zero, bigStep_zero]

/-- Settles O35: an engine turn counts one step off, and a host turn reaches the fault fields only (R57, R163). -/
theorem runsTerminate : Obligations.RunsTerminate := by
  intro s e hb hgo
  cases Goes_effect hgo with
  | engine ha => exact ⟨fun _ => engineStep_stepsLeft hb, fun hh => by simp [ha] at hh⟩
  | hostIdle ha => exact ⟨fun hh => by simp [ha] at hh, fun _ _ => rfl⟩
  | host ev hev _ he =>
    obtain ⟨ha, -⟩ := id hev
    refine ⟨fun hh => by simp [ha] at hh, fun _ hnoreset => ?_⟩
    obtain rfl | rfl := eventEffect_of_busy he hb fun h => hnoreset (h ▸ hev)
    · rfl
    · rfl

/-- Settles O59: by the effects of a step, of which only two clear `DONE` (R164). -/
theorem doneStaysUntilNextCommand : Obligations.DoneStaysUntilNextCommand := by
  intro s e hgo hd hd'
  cases Goes_effect hgo with
  | engine => simp [engineStep_done hd] at hd'
  | hostIdle => simp [hd] at hd'
  | host ev hev _ he =>
    rcases eventEffect_done he hd hd' with rfl | ⟨hb, hb', d, i, rfl, hdec⟩
    · exact .inl hev
    · exact .inr ⟨hb, hb', d, i, hev, hdec⟩

/-- Settles O24: an idle engine accepts with the writes of R150. -/
theorem encryptIsAccepted : Obligations.EncryptIsAccepted := exec_idle .encrypt

/-- Settles O25: an idle engine accepts with the writes of R151; the product wraps at 32 bits. -/
theorem decryptIsAccepted : Obligations.DecryptIsAccepted := by
  intro s hb
  rw [exec_idle .decrypt s hb, ← deltaTimes_eq_ofNat, ← delta_mul_eq_deltaTimes]
  rfl

/-- Settles O26: a busy engine records `BusyAccess` (R57, R170). -/
theorem commandDuringRunFaults : Obligations.CommandDuringRunFaults := exec_busy

/-- Settles O27: acceptance while idle and the fault during a run, each with what it leaves alone (R150 to R152, R57, R170). -/
theorem commandFrame : Obligations.CommandFrame := by
  intro i s t h
  cases hb : s.engine.busy with
  | false =>
    rw [exec_idle i s hb] at h
    cases h
    exact ⟨_, rfl, Engine.accept_readLane _ i, Engine.accept_rounds _ i,
      fun _ => ⟨Engine.accept_err _ i, Engine.accept_ecode _ i⟩, nofun⟩
  | true =>
    rw [exec_busy i s hb, State.record_eq] at h
    cases h
    exact ⟨_, rfl, faulted_readLane _ _, rfl, nofun, fun _ => ⟨rfl, rfl, hb, rfl, rfl⟩⟩

/-- Settles O32: the forward case of the engine's step (R153). -/
theorem forwardRoundStep : Obligations.ForwardRoundStep := fun _ _ hb hd hr => engineStep_forward hb hr hd

/-- Settles O33: the inverse case of the engine's step (R154). -/
theorem inverseRoundStep : Obligations.InverseRoundStep := fun _ _ hb hd hr => engineStep_inverse hb hr hd

/-- Settles O34: the other two cases of the engine's step (R155). -/
theorem completionStep : Obligations.CompletionStep := fun _ _ => ⟨engineStep_completion, engineStep_idle⟩

/-- Settles O52: by the effects of a step, each of which is a next state of the same width. -/
theorem everyStepAnswersSameWidth : Obligations.EveryStepAnswersSameWidth := by
  intro s
  obtain ⟨e, hgo, -⟩ := step_effect s
  exact ⟨e, hgo⟩

end

section
/-! Proofs of the exceptions family (60_exceptions.md): which host events raise which fault and that the first one is kept (R170,
R171), that a recorded fault does not disturb the machine (R173), the level outputs (R175), and engines side by side (R184). -/

namespace Sys2Proof

variable {w w' : Nat}

/-! ### Engines side by side (R184) -/

/-- The lanes of the first half-block come first. -/
theorem lane_joinHalf_left (A : HalfBlock w) (B : HalfBlock w') {j : Nat} (hj : j < w) :
    lane (joinHalf A B) j = lane A j := by
  refine BitVec.eq_of_getLsbD_eq fun i hi => ?_
  rw [lane_getLsbD, lane_getLsbD, joinHalf, word_tabulate_of_lt _ hi, BitVec.getLsbD_append, if_pos hj]

/-- The lanes of the second half-block follow them. -/
theorem lane_joinHalf_right (A : HalfBlock w) (B : HalfBlock w') (j : Nat) :
    lane (joinHalf A B) (w + j) = lane B j := by
  refine BitVec.eq_of_getLsbD_eq fun i hi => ?_
  rw [lane_getLsbD, lane_getLsbD, joinHalf, word_tabulate_of_lt _ hi, BitVec.getLsbD_append,
    if_neg (Nat.not_lt.mpr (Nat.le_add_right w j)), Nat.add_sub_cancel_left]

/-- Lanes that are those of `A`, and then those of `B`, are the lanes of the join. -/
theorem eq_joinHalf {C : HalfBlock (w' + w)} {A : HalfBlock w} {B : HalfBlock w'}
    (hleft : ∀ j, j < w → lane C j = lane A j) (hright : ∀ j, j < w' → lane C (w + j) = lane B j) :
    C = joinHalf A B := by
  refine halfBlock_lane_ext fun j hj => ?_
  by_cases h : j < w
  · rw [hleft j h, lane_joinHalf_left A B h]
  · obtain ⟨k, rfl⟩ := Nat.exists_eq_add_of_le (Nat.le_of_not_lt h)
    rw [hright k (by omega), lane_joinHalf_right]

/-- Two rounds' results side by side; the accumulator is that of the first. -/
def RoundState.join (a : RoundState w) (b : RoundState w') : RoundState (w' + w) :=
  ⟨joinHalf a.v0 b.v0, joinHalf a.v1 b.v1, a.sum⟩

/-- A round's result that looks, in each lane, like one of two others is these two side by side. -/
theorem eq_roundState_join {c : RoundState (w' + w)} {a : RoundState w} {b : RoundState w'} (hsum : c.sum = a.sum)
    (hleft : ∀ j, j < w → c.laneView j = a.laneView j) (hright : ∀ j, j < w' → c.laneView (w + j) = b.laneView j) :
    c = a.join b := by
  have hv0 : c.v0 = joinHalf a.v0 b.v0 :=
    eq_joinHalf (fun j hj => congrArg TeaBlock.v0 (hleft j hj)) (fun j hj => congrArg TeaBlock.v0 (hright j hj))
  have hv1 : c.v1 = joinHalf a.v1 b.v1 :=
    eq_joinHalf (fun j hj => congrArg TeaBlock.v1 (hleft j hj)) (fun j hj => congrArg TeaBlock.v1 (hright j hj))
  rw [RoundState.join, ← hv0, ← hv1, ← hsum]

section Runs

variable (v0 v1 k0 k1 k2 k3 : HalfBlock w) (u0 u1 q0 q1 q2 q3 : HalfBlock w') (r : Nat)

/-- `ENC` is TEA lane by lane, and the accumulator depends on the number of rounds only. -/
theorem encRun_joinHalf :
    encRun (joinHalf v0 u0) (joinHalf v1 u1) (joinHalf k0 q0) (joinHalf k1 q1) (joinHalf k2 q2) (joinHalf k3 q3) r =
      (encRun v0 v1 k0 k1 k2 k3 r).join (encRun u0 u1 q0 q1 q2 q3 r) := by
  refine eq_roundState_join (by rw [encRun_sum, encRun_sum]) (fun j hj => ?_) (fun j hj => ?_)
  · rw [laneView_encRun _ _ _ _ _ _ r (by omega), laneView_encRun _ _ _ _ _ _ r hj]
    simp only [lane_joinHalf_left _ _ hj]
  · rw [laneView_encRun _ _ _ _ _ _ r (by omega), laneView_encRun _ _ _ _ _ _ r hj]
    simp only [lane_joinHalf_right]

/-- `DEC` is TEA lane by lane, and it always leaves the accumulator 0. -/
theorem decRun_joinHalf :
    decRun (joinHalf v0 u0) (joinHalf v1 u1) (joinHalf k0 q0) (joinHalf k1 q1) (joinHalf k2 q2) (joinHalf k3 q3) r =
      (decRun v0 v1 k0 k1 k2 k3 r).join (decRun u0 u1 q0 q1 q2 q3 r) := by
  refine eq_roundState_join (by rw [decRun_sum, decRun_sum]) (fun j hj => ?_) (fun j hj => ?_)
  · rw [laneView_decRun _ _ _ _ _ _ r (by omega), laneView_decRun _ _ _ _ _ _ r hj]
    simp only [lane_joinHalf_left _ _ hj]
  · rw [laneView_decRun _ _ _ _ _ _ r (by omega), laneView_decRun _ _ _ _ _ _ r hj]
    simp only [lane_joinHalf_right]

end Runs

end Sys2Proof

namespace Sys2Proof.Machine

variable {w : Nat}

/-! ### Raising a fault (R170, R171) -/

/-- The table of R171: among the events that `does` admits is one that raises the fault with this code. -/
def Engine.Raises (e : Engine w) (does : HostEvent w → Prop) (code : BitVec 4) : Prop :=
  (code = 1#4 ∧ e.busy = false ∧
    ∃ d, d.setWidth 32 ≠ 0x00000001#32 ∧ d.setWidth 32 ≠ 0x00000002#32 ∧ does (.write 0xC1#8 d)) ∨
  (code = 2#4 ∧ e.busy = true ∧ ((∃ a d, does (.write a d)) ∨ ∃ a, a ≠ 0xC2#8 ∧ does (.read a))) ∨
  (code = 3#4 ∧ e.busy = false ∧
    ((∃ a d, 0xC2 ≤ a.toNat ∧ does (.write a d)) ∨ ∃ a, (a = 0xC1#8 ∨ 0xC5 ≤ a.toNat) ∧ does (.read a)))

/-- A host event but a reset either leaves the fault fields alone, or records a fault of R171's table and does nothing else. -/
theorem eventEffect_faultFields {e e' : Engine w} {ev : HostEvent w} (he : EventEffect e ev e')
    {does : HostEvent w → Prop} (hev : does ev) :
    (ev = .reset ∧ e' = Engine.reset w) ∨ (e'.err = e.err ∧ e'.ecode = e.ecode) ∨
      ∃ code, e' = e.faulted code ∧ e.Raises does code := by
  cases he with
  | nothing => exact .inr (.inl ⟨rfl, rfl⟩)
  | reset h => exact .inl ⟨h, rfl⟩
  | lane | rounds | accepted => exact .inr (.inl (by simp))
  | illegal hb d h1 h2 h => exact .inr (.inr ⟨_, rfl, .inl ⟨rfl, hb, d, h1, h2, h ▸ hev⟩⟩)
  | busyWrite hb a d h => exact .inr (.inr ⟨_, rfl, .inr (.inl ⟨rfl, hb, .inl ⟨a, d, h ▸ hev⟩⟩)⟩)
  | busyRead hb a ha h => exact .inr (.inr ⟨_, rfl, .inr (.inl ⟨rfl, hb, .inr ⟨a, ha, h ▸ hev⟩⟩)⟩)
  | badWrite hb a d ha h => exact .inr (.inr ⟨_, rfl, .inr (.inr ⟨rfl, hb, .inl ⟨a, d, ha, h ▸ hev⟩⟩)⟩)
  | badRead hb a ha h => exact .inr (.inr ⟨_, rfl, .inr (.inr ⟨rfl, hb, .inr ⟨a, ha, h ▸ hev⟩⟩)⟩)

/-- A step but one with a reset event either leaves the fault fields alone, or is a host turn that records a fault of R171's table
and does nothing else to the engine. -/
theorem stepEffect_faultFields {s : State} {e : Engine s.width.bits} (h : StepEffect s e) :
    (s.HostDoes .reset ∧ e = Engine.reset s.width.bits) ∨ (e.err = s.engine.err ∧ e.ecode = s.engine.ecode) ∨
      ∃ code, e = s.engine.faulted code ∧ s.nextAgent = .host ∧ s.engine.Raises s.HostDoes code := by
  cases h with
  | engine =>
    obtain ⟨-, -, -, -, -, -, herr, hcode⟩ := engineStep_frame s.engine
    exact .inr (.inl ⟨herr, hcode⟩)
  | hostIdle => exact .inr (.inl ⟨rfl, rfl⟩)
  | host ev hev _ he =>
    obtain ⟨hhost, -⟩ := id hev
    rcases eventEffect_faultFields he hev with ⟨rfl, heq⟩ | hkept | ⟨code, heq, hraises⟩
    · exact .inl ⟨hev, heq⟩
    · exact .inr (.inl hkept)
    · exact .inr (.inr ⟨code, heq, hhost, hraises⟩)

/-! ### Every operation but a read of `STATUS` is blind to the fault fields (R173) -/

/-- The engine with other fault fields. -/
def Engine.withFaults (e : Engine w) (p : Bool) (c : BitVec 4) : Engine w := { e with err := p, ecode := c }

theorem eqButFaults_of_eq_withFaults {e e' : Engine w} {p : Bool} {c : BitVec 4} (h : e' = e.withFaults p c) :
    e.EqButFaults e' := by
  rw [h]
  rfl

section WithFaults

variable (e : Engine w) (p : Bool) (c : BitVec 4)

theorem withFaults_eqButFaults : e.EqButFaults (e.withFaults p c) := rfl

/-- Recording a fault may leave different codes, where only one of the two engines had a fault recorded before. -/
theorem withFaults_faulted_eqButFaults (code : BitVec 4) : (e.faulted code).EqButFaults ((e.withFaults p c).faulted code) :=
  rfl

theorem withFaults_writeLane (n : HalfName) (i : Fin 32) (x : LaneWord w) :
    (e.withFaults p c).writeLane n i x = (e.writeLane n i x).withFaults p c := by
  cases n <;> rfl

theorem withFaults_accept (i : Instr) : (e.withFaults p c).accept i = (e.accept i).withFaults p c := by
  cases i <;> rfl

/-- The engine's own steps neither read nor write the fault fields (R171, R173). -/
theorem withFaults_engineStep : (e.withFaults p c).engineStep = e.engineStep.withFaults p c := by
  have his := engineStep_is e
  generalize e.engineStep = f at his ⊢
  cases his with
  | idle hb => exact engineStep_idle (e := e.withFaults p c) hb
  | completion hb hr => exact engineStep_completion (e := e.withFaults p c) hb hr
  | forward hb hr hd => exact engineStep_forward (e := e.withFaults p c) hb hr hd
  | inverse hb hr hd => exact engineStep_inverse (e := e.withFaults p c) hb hr hd

end WithFaults

/-- The kinds of address a write tells apart (R54). -/
theorem writeAddress_cases (a : Address) :
    (∃ n i, a = laneAddress n i) ∨ a = 0xC0#8 ∨ a = 0xC1#8 ∨ 0xC2 ≤ a.toNat := by
  rcases address_cases a with h | h | h | rfl | rfl | rfl | h5
  · exact .inl h
  · exact .inr (.inl h)
  · exact .inr (.inr (.inl h))
  · simp
  · simp
  · simp
  · exact .inr (.inr (.inr (by omega)))

/-! ### Two machines that differ in the fault fields only -/

/-- The machine with other fault fields. -/
def State.withFaults (s : State) (p : Bool) (c : BitVec 4) : State := s.withEngine (s.engine.withFaults p c)

/-- The answers `o` of the machine `s`, and `o'` of the one with the fault fields `p` and `c`, agree but for the fault fields: the
next states have the same turns and events left and engines that differ in the fault fields at most, and the two hosts have read
the same, unless `statusRead`, when each has read its own `STATUS` word. -/
def AgreeButFaults (s : State) (p : Bool) (c : BitVec 4) (statusRead : Prop)
    (o o' : Host.Outcome State Fault Refusal) : Prop :=
  ∃ f f' sc sd rd rd', o = .next ⟨s.width, f, sc, sd, rd⟩ ∧ o' = .next ⟨s.width, f', sc, sd, rd'⟩ ∧
    f.EqButFaults f' ∧
    (rd = rd' ∨ (statusRead ∧ rd = zextScalar s.engine.status :: s.reads ∧
      rd' = zextScalar (s.engine.withFaults p c).status :: s.reads))

section TwoMachines

variable (s : State) {p : Bool} {c : BitVec 4} {q : Prop} {f f' : Engine s.width.bits}

/-- Two answers that change the engines only. -/
theorem agreeButFaults_withEngine (h : f.EqButFaults f') :
    AgreeButFaults s p c q (.next (s.withEngine f)) (.next ((s.withFaults p c).withEngine f')) :=
  ⟨f, f', s.script, s.sched, s.reads, s.reads, rfl, rfl, h, .inl rfl⟩

/-- Two answers by which both hosts have read the same value. -/
theorem agreeButFaults_answer (h : f.EqButFaults f') (v : HostData s.width.bits) :
    AgreeButFaults s p c q (.next (s.answer f v)) (.next ((s.withFaults p c).answer f' v)) :=
  ⟨f, f', s.script, s.sched, v :: s.reads, v :: s.reads, rfl, rfl, h, .inl rfl⟩

/-- A command is accepted, and an illegal word rejected, whatever fault is recorded (R173). -/
theorem command_agreeButFaults (hb : s.engine.busy = false) (x : Scalar) :
    AgreeButFaults s p c q (command s x) (command (s.withFaults p c) x) := by
  have haccept (i : Instr) : AgreeButFaults s p c q (exec i s) (exec i (s.withFaults p c)) := by
    rw [exec_idle i s hb, exec_idle i (s.withFaults p c) hb]
    exact agreeButFaults_withEngine s (eqButFaults_of_eq_withFaults (withFaults_accept ..))
  rw [command_eq, command_eq]
  split
  · exact haccept .encrypt
  split
  · exact haccept .decrypt
  · exact agreeButFaults_withEngine s (withFaults_faulted_eqButFaults ..)

/-- A host write does not depend on the fault fields (R54, R173). -/
theorem hostWrite_agreeButFaults (a : Address) (d : HostData s.width.bits) :
    AgreeButFaults s p c q (hostWrite s a d) (hostWrite (s.withFaults p c) a d) := by
  cases hb : s.engine.busy with
  | true =>
    rw [hostWrite_busy s a d hb, hostWrite_busy (s.withFaults p c) a d hb]
    exact agreeButFaults_withEngine s (withFaults_faulted_eqButFaults ..)
  | false =>
    rcases writeAddress_cases a with ⟨n, i, rfl⟩ | rfl | rfl | hhigh
    · rw [hostWrite_lane s n i d hb, hostWrite_lane (s.withFaults p c) n i d hb]
      exact agreeButFaults_withEngine s (eqButFaults_of_eq_withFaults (withFaults_writeLane ..))
    · rw [hostWrite_rounds s d hb, hostWrite_rounds (s.withFaults p c) d hb]
      exact agreeButFaults_withEngine s rfl
    · rw [hostWrite_cmd s d hb, hostWrite_cmd (s.withFaults p c) d hb]
      exact command_agreeButFaults s hb _
    · rw [hostWrite_bad s a d hb hhigh, hostWrite_bad (s.withFaults p c) a d hb hhigh]
      exact agreeButFaults_withEngine s (withFaults_faulted_eqButFaults ..)

/-- Only a read of `STATUS` answers with the fault fields (R55, R173). -/
theorem hostRead_agreeButFaults (a : Address) (hq : a = 0xC2#8 → q) :
    AgreeButFaults s p c q (.next (hostRead s a)) (.next (hostRead (s.withFaults p c) a)) := by
  by_cases ha : a = 0xC2#8
  · have hstatus := hq ha
    subst ha
    rw [hostRead_status, hostRead_status]
    exact ⟨_, _, s.script, s.sched, _, _, rfl, rfl, withFaults_eqButFaults .., .inr ⟨hstatus, rfl, rfl⟩⟩
  · have hport : s.engine.readPort a = (s.withFaults p c).engine.readPort a :=
      readPort_of_eqButFaults (withFaults_eqButFaults s.engine p c) ha
    cases hp : s.engine.readPort a with
    | ok v =>
      rw [hostRead_of_ok hp, hostRead_of_ok (hport.symm.trans hp)]
      exact agreeButFaults_answer s (withFaults_eqButFaults ..) v
    | error cause =>
      rw [hostRead_of_error hp, hostRead_of_error (hport.symm.trans hp)]
      exact agreeButFaults_answer s (withFaults_faulted_eqButFaults ..) 0

/-- A host event of any kind. -/
theorem hostEvent_agreeButFaults (ev : HostEvent s.width.bits) (hq : ev = .poll ∨ ev = .read 0xC2#8 → q) :
    AgreeButFaults s p c q (hostEvent s ev) (hostEvent (s.withFaults p c) ev) := by
  cases ev with
  | write a d => exact hostWrite_agreeButFaults s a d
  | read a => exact hostRead_agreeButFaults s a fun ha => hq (.inr (congrArg HostEvent.read ha))
  | poll =>
    exact ⟨s.engine, s.engine.withFaults p c, s.pollOnce.script, s.sched, _, _, rfl, rfl, withFaults_eqButFaults ..,
      .inr ⟨hq (.inl rfl), rfl, rfl⟩⟩
  | reset => exact agreeButFaults_withEngine s rfl

/-- A step of either agent; whose turn it is does not depend on the fault fields. -/
theorem step_agreeButFaults :
    AgreeButFaults s p c (s.HostDoes .poll ∨ s.HostDoes (.read 0xC2#8)) (step s) (step (s.withFaults p c)) := by
  have hagent : (s.withFaults p c).nextAgent = s.nextAgent := rfl
  rw [step, step]
  cases ha : s.nextAgent with
  | engine =>
    rw [takeTurn_engine s ha, takeTurn_engine _ (hagent.trans ha)]
    exact agreeButFaults_withEngine s.dropTurn (eqButFaults_of_eq_withFaults (withFaults_engineStep ..))
  | host =>
    cases hs : s.script with
    | nil =>
      rw [takeTurn_host_idle s ha hs, takeTurn_host_idle _ (hagent.trans ha) hs]
      exact agreeButFaults_withEngine s.dropTurn (withFaults_eqButFaults s.engine p c)
    | cons ev rest =>
      have hev : s.HostDoes ev := ⟨ha, by rw [hs, List.head?_cons]⟩
      rw [takeTurn_host s ev hev, takeTurn_host (s.withFaults p c) ev hev]
      refine hostEvent_agreeButFaults s.afterEvent ev ?_
      rintro (rfl | rfl)
      · exact .inl hev
      · exact .inr hev

end TwoMachines

end Sys2Proof.Machine

open Sys2Proof Sys2Proof.Machine

/-- Settles O23: both sides are TEA in every lane, with the same accumulator (R106, R157, R184). -/
theorem enginesSideBySide : Obligations.EnginesSideBySide :=
  fun _ _ v0 v1 k0 k1 k2 k3 u0 u1 q0 q1 q2 q3 r =>
    ⟨encRun_joinHalf v0 v1 k0 k1 k2 k3 u0 u1 q0 q1 q2 q3 r, decRun_joinHalf v0 v1 k0 k1 k2 k3 u0 u1 q0 q1 q2 q3 r⟩

/-- Settles O55: where a step records a fault and `ERR` is set already, R170 keeps `ECODE`. -/
theorem firstFaultIsKept : Obligations.FirstFaultIsKept := by
  intro s e hgo herr hnoreset
  rcases stepEffect_faultFields (Goes_effect hgo) with ⟨hreset, -⟩ | ⟨herr', hcode⟩ | ⟨code, rfl, -⟩
  · exact absurd hreset hnoreset
  · exact ⟨herr'.trans herr, hcode⟩
  · simp [herr]

/-- Settles O56: a step that sets `ERR` is one that records a fault of R171's table, and while `ERR` is 0 its code is kept. -/
theorem onlyTransactionsFault : Obligations.OnlyTransactionsFault := by
  intro s e hgo herr herr'
  rcases stepEffect_faultFields (Goes_effect hgo) with ⟨-, rfl⟩ | ⟨hkept, -⟩ | ⟨code, rfl, hhost, hraises⟩
  · simp at herr'
  · simp [hkept, herr] at herr'
  · have hcode : (s.engine.faulted code).ecode = code := by rw [Engine.faulted_ecode, if_pos herr]
    refine ⟨hhost, faulted_eqButFaults s.engine code, ?_⟩
    rw [hcode]
    exact hraises

/-- Settles O57: each agent's move is blind to the fault fields, and only `STATUS` tells them (R173). -/
theorem faultsDoNotDisturb : Obligations.FaultsDoNotDisturb := fun s _ _ => step_agreeButFaults s

/-- Settles O45: the outputs are read from the bits of `STATUS` (R52, R175). -/
theorem outputsMirrorStatus : Obligations.OutputsMirrorStatus := fun _ e => ⟨status_busy e, status_done e, status_err e⟩

end

section
/-! Proofs of the reset and hazards family (70_reset_and_hazards.md): the reset event (R190, R191). -/

open Sys2Proof Sys2Proof.Machine

/-- Settles O49: whatever the state, busy or not, the event puts `Engine.reset` in the engine's place. -/
theorem resetEventAsSpecified : Obligations.ResetEventAsSpecified := fun s =>
  ⟨Engine.reset s.width.bits, hostEvent_reset s, readLane_reset, Engine.reset_sum, Engine.reset_rcnt, Engine.reset_rounds,
    reset_status, Engine.reset_busy, Engine.reset_done⟩

end
